-- ==== Sys2Proof/Word.lean ====
section
/-! DEFINITION. The value types of the machine (`00_scope.md` rules R7, R8): unsigned bit vectors of the widths the
spec states. There are no signed quantities and no sign extension anywhere. -/

namespace Sys2Proof

/-- An 8-bit value: a general register, a timer, a byte of memory, an immediate `kk`. -/
abbrev Byte := BitVec 8

/-- A 16-bit value: an instruction word, `pc`, `I`, a stack slot. -/
abbrev Word := BitVec 16

/-- A 12-bit immediate address `nnn`. -/
abbrev Addr12 := BitVec 12

/-- A 4-bit field: a register index `x` or `y`, a sprite height `n`, a key code (rules R21, R91, R119). -/
abbrev Nibble := BitVec 4

/-- `zext_16` of a byte (rule R8). -/
def zextByte (b : Byte) : Word := b.setWidth 16

/-- `zext_16` of a 12-bit immediate (rules R8, R93). -/
def zextAddr (a : Addr12) : Word := a.setWidth 16

end Sys2Proof
end

