-- ==== Sys2Proof/Config.lean ====
section
/-! DEFINITION. Fixed sizes (`00_scope.md` rule R5), the parameters of a reset (rule R6), the default font
(`10_state.md` rule R33) and the free value of the machine: the random source of `Cxkk`. -/

namespace Sys2Proof

namespace Config

/-- `MEM_SIZE` (rule R5): addresses 0x000 to 0xFFF. -/
def memSize : Nat := 4096

/-- `PROG_BASE` (rule R5). -/
def progBase : Nat := 0x200

/-- `PROG_MAX` (rule R5): the longest program image. -/
def progMax : Nat := 3584

/-- `FONT_SIZE` (rule R5). -/
def fontSize : Nat := 80

/-- The default of `instructions_per_tick` (rule R6). -/
def defaultIpt : Nat := 10

/-- The sixteen glyphs of the default font, five rows each, top row first (rule R33).
PRESUMED (log entry 3): the spec marks these bytes as general knowledge and no rule depends on them. -/
def glyphs : List (List Byte) :=
  [[0xF0, 0x90, 0x90, 0x90, 0xF0], [0x20, 0x60, 0x20, 0x20, 0x70]] ++
  [[0xF0, 0x10, 0xF0, 0x80, 0xF0], [0xF0, 0x10, 0xF0, 0x10, 0xF0]] ++
  [[0x90, 0x90, 0xF0, 0x10, 0x10], [0xF0, 0x80, 0xF0, 0x10, 0xF0]] ++
  [[0xF0, 0x80, 0xF0, 0x90, 0xF0], [0xF0, 0x10, 0x20, 0x40, 0x40]] ++
  [[0xF0, 0x90, 0xF0, 0x90, 0xF0], [0xF0, 0x90, 0xF0, 0x10, 0xF0]] ++
  [[0xF0, 0x90, 0xF0, 0x90, 0x90], [0xE0, 0x90, 0xE0, 0x90, 0xE0]] ++
  [[0xF0, 0x80, 0x80, 0x80, 0xF0], [0xE0, 0x90, 0x90, 0x90, 0xE0]] ++
  [[0xF0, 0x80, 0xF0, 0x80, 0xF0], [0xF0, 0x80, 0xF0, 0x80, 0x80]]

/-- The default `FONT`: the 80 bytes of the glyphs in order (rule R33). -/
def defaultFont : Vector Byte 80 := ⟨glyphs.flatten.toArray, by rfl⟩

/-- FREE VALUE (log entry 5): the `k`-th byte of the random source `rand` (rule R6, `42_alu.md` rule R184). It has no
body, so nothing can be proved about which byte is drawn. -/
opaque randomByte : Nat → Byte

end Config

/-- The parameters a reset fixes and nothing changes afterwards (rule R6): `IPT`, any natural number, and `FONT`,
80 bytes. The program image `ROM` is the third argument of the reset event. -/
structure Params where
  /-- `instructions_per_tick`: the slots of one cycle. -/
  ipt : Nat
  /-- The bytes of 0x000-0x04F after reset. -/
  font : Vector Byte 80
deriving DecidableEq, Repr

/-- The default parameters of rule R6. -/
def Params.default : Params := { ipt := Config.defaultIpt, font := Config.defaultFont }

end Sys2Proof
end

