-- ==== Sys2Proof/WellFormed.lean ====
section
/-! DEFINITION. Well-formedness of what the outside gives the machine. An operand of `Instr` is bounded by its type
(rule R21: an index is in range by construction), so `Instr.wf` holds of every instruction; the checks that can refuse
are those on plain numbers and byte sequences: an operand before it is put in its field, a program image, a wide key
code. -/

namespace Sys2Proof

/-- An operand fits a field of `bits` bits (`30_encoding.md` rules R91, R93). -/
def operandFits (bits operand : Nat) : Bool := decide (operand < 2 ^ bits)

/-- A program image is at most 3584 bytes long (`00_scope.md` rule R6; `60_exceptions.md` rule R268). -/
def romFits (rom : List Byte) : Bool := decide (rom.length ≤ Config.progMax)

/-- A key code is 0-15 (`60_exceptions.md` rule R269). -/
def keyCodeFits (code : Nat) : Bool := operandFits 4 code

/-- Every operand fits the field its format gives it (rule R92). -/
def Instr.wf : Instr → Bool
  | .cls | .ret => true
  | .jp nnn | .call nnn | .ldI nnn | .jpV0 nnn => operandFits 12 nnn.toNat
  | .seImm x kk | .sneImm x kk | .ldImm x kk | .addImm x kk | .rnd x kk => operandFits 4 x.toNat && operandFits 8 kk.toNat
  | .seReg x y | .ldReg x y | .orReg x y | .andReg x y | .xorReg x y | .addReg x y | .sub x y | .shr x y | .subn x y
  | .shl x y | .sneReg x y => operandFits 4 x.toNat && operandFits 4 y.toNat
  | .drw x y n => operandFits 4 x.toNat && operandFits 4 y.toNat && operandFits 4 n.toNat
  | .skp x | .sknp x | .ldVxDt x | .ldVxK x | .ldDtVx x | .ldStVx x | .addI x | .ldF x | .ldB x | .ldMemVx x
  | .ldVxMem x => operandFits 4 x.toNat

end Sys2Proof
end

