-- ==== Sys2Proof/Decode.lean ====
section
/-! DEFINITION. Decoding and encoding (`30_encoding.md`): the fields (rule R91), the opcode map (rule R97), the decoder
with second-level dispatch (rule R94), the encoder by format (rule R92), and both over bytes, most significant first
(`20_memory.md` rule R61). -/

namespace Sys2Proof

/-! ### Fields (rule R91) -/

/-- `op`, bits 15-12. -/
def fieldOp (w : Word) : Nibble := w.extractLsb' 12 4
/-- `x`, bits 11-8. -/
def fieldX (w : Word) : Nibble := w.extractLsb' 8 4
/-- `y`, bits 7-4. -/
def fieldY (w : Word) : Nibble := w.extractLsb' 4 4
/-- `n`, bits 3-0. -/
def fieldN (w : Word) : Nibble := w.extractLsb' 0 4
/-- `kk`, bits 7-0. -/
def fieldKk (w : Word) : Byte := w.extractLsb' 0 8
/-- `nnn`, bits 11-0. -/
def fieldNnn (w : Word) : Addr12 := w.extractLsb' 0 12

/-- Why bytes are no instruction. -/
inductive DecodeError where
  /-- The word matches no row of rule R97: `UnknownInstruction` (rule R99). -/
  | unknownWord (w : Word)
  /-- Fewer than the two bytes every instruction has (rule R90). The step never meets this: its fetch has two bytes. -/
  | truncated (have_ : Nat)
deriving DecidableEq, Repr

/-! ### The decoder (rule R94) -/

/-- Family 8: the second key is the low nibble (rules R94, R97 rows 10-18). -/
def decodeFamily8 (w : Word) : Except DecodeError Instr :=
  match (fieldN w).toNat with
  | 0x0 => .ok (.ldReg (fieldX w) (fieldY w))
  | 0x1 => .ok (.orReg (fieldX w) (fieldY w))
  | 0x2 => .ok (.andReg (fieldX w) (fieldY w))
  | 0x3 => .ok (.xorReg (fieldX w) (fieldY w))
  | 0x4 => .ok (.addReg (fieldX w) (fieldY w))
  | 0x5 => .ok (.sub (fieldX w) (fieldY w))
  | 0x6 => .ok (.shr (fieldX w) (fieldY w))
  | 0x7 => .ok (.subn (fieldX w) (fieldY w))
  | 0xE => .ok (.shl (fieldX w) (fieldY w))
  | _   => .error (.unknownWord w)

/-- Family E: the second key is the low byte (rule R97 rows 24, 25). -/
def decodeFamilyE (w : Word) : Except DecodeError Instr :=
  match (fieldKk w).toNat with
  | 0x9E => .ok (.skp (fieldX w))
  | 0xA1 => .ok (.sknp (fieldX w))
  | _    => .error (.unknownWord w)

/-- Family F: the second key is the low byte (rule R97 rows 26-34). -/
def decodeFamilyF (w : Word) : Except DecodeError Instr :=
  match (fieldKk w).toNat with
  | 0x07 => .ok (.ldVxDt (fieldX w))
  | 0x0A => .ok (.ldVxK (fieldX w))
  | 0x15 => .ok (.ldDtVx (fieldX w))
  | 0x18 => .ok (.ldStVx (fieldX w))
  | 0x1E => .ok (.addI (fieldX w))
  | 0x29 => .ok (.ldF (fieldX w))
  | 0x33 => .ok (.ldB (fieldX w))
  | 0x55 => .ok (.ldMemVx (fieldX w))
  | 0x65 => .ok (.ldVxMem (fieldX w))
  | _    => .error (.unknownWord w)

/-- The total decoder of rules R94, R123: first key the high nibble, second key the whole word in family 0, the low
nibble in families 5, 8 and 9, the low byte in families E and F. Every word of no row is rejected by name (rule R99). -/
def decode (w : Word) : Except DecodeError Instr :=
  match (fieldOp w).toNat with
  | 0x0 => if w = 0x00E0#16 then .ok .cls else if w = 0x00EE#16 then .ok .ret else .error (.unknownWord w)
  | 0x1 => .ok (.jp (fieldNnn w))
  | 0x2 => .ok (.call (fieldNnn w))
  | 0x3 => .ok (.seImm (fieldX w) (fieldKk w))
  | 0x4 => .ok (.sneImm (fieldX w) (fieldKk w))
  | 0x5 => if fieldN w = 0#4 then .ok (.seReg (fieldX w) (fieldY w)) else .error (.unknownWord w)
  | 0x6 => .ok (.ldImm (fieldX w) (fieldKk w))
  | 0x7 => .ok (.addImm (fieldX w) (fieldKk w))
  | 0x8 => decodeFamily8 w
  | 0x9 => if fieldN w = 0#4 then .ok (.sneReg (fieldX w) (fieldY w)) else .error (.unknownWord w)
  | 0xA => .ok (.ldI (fieldNnn w))
  | 0xB => .ok (.jpV0 (fieldNnn w))
  | 0xC => .ok (.rnd (fieldX w) (fieldKk w))
  | 0xD => .ok (.drw (fieldX w) (fieldY w) (fieldN w))
  | 0xE => decodeFamilyE w
  | 0xF => decodeFamilyF w
  | _   => .error (.unknownWord w)

/-! ### The encoder (rules R92, R97) -/

/-- Put a field at bit `lo` of a word. -/
def place {k : Nat} (lo : Nat) (f : BitVec k) : Word := f.setWidth 16 <<< lo

/-- Format NNN: the opcode nibble in bits 15-12, `nnn` in bits 11-0. -/
def encNnn (op : Nibble) (nnn : Addr12) : Word := place 12 op ||| place 0 nnn
/-- Formats XKK and X: `x` in bits 11-8, `kk` (fixed in format X) in bits 7-0. -/
def encXkk (op x : Nibble) (kk : Byte) : Word := place 12 op ||| place 8 x ||| place 0 kk
/-- Formats XY and XYN: `y` in bits 7-4, the last nibble (fixed in XY, the field `n` in XYN) in bits 3-0. -/
def encXyn (op x y n : Nibble) : Word := place 12 op ||| place 8 x ||| place 4 y ||| place 0 n

/-- The word of an instruction. -/
def encode : Instr → Word
  | .cls         => 0x00E0#16
  | .ret         => 0x00EE#16
  | .jp nnn      => encNnn 0x1 nnn
  | .call nnn    => encNnn 0x2 nnn
  | .seImm x kk  => encXkk 0x3 x kk
  | .sneImm x kk => encXkk 0x4 x kk
  | .seReg x y   => encXyn 0x5 x y 0x0
  | .ldImm x kk  => encXkk 0x6 x kk
  | .addImm x kk => encXkk 0x7 x kk
  | .ldReg x y   => encXyn 0x8 x y 0x0
  | .orReg x y   => encXyn 0x8 x y 0x1
  | .andReg x y  => encXyn 0x8 x y 0x2
  | .xorReg x y  => encXyn 0x8 x y 0x3
  | .addReg x y  => encXyn 0x8 x y 0x4
  | .sub x y     => encXyn 0x8 x y 0x5
  | .shr x y     => encXyn 0x8 x y 0x6
  | .subn x y    => encXyn 0x8 x y 0x7
  | .shl x y     => encXyn 0x8 x y 0xE
  | .sneReg x y  => encXyn 0x9 x y 0x0
  | .ldI nnn     => encNnn 0xA nnn
  | .jpV0 nnn    => encNnn 0xB nnn
  | .rnd x kk    => encXkk 0xC x kk
  | .drw x y n   => encXyn 0xD x y n
  | .skp x       => encXkk 0xE x 0x9E
  | .sknp x      => encXkk 0xE x 0xA1
  | .ldVxDt x    => encXkk 0xF x 0x07
  | .ldVxK x     => encXkk 0xF x 0x0A
  | .ldDtVx x    => encXkk 0xF x 0x15
  | .ldStVx x    => encXkk 0xF x 0x18
  | .addI x      => encXkk 0xF x 0x1E
  | .ldF x       => encXkk 0xF x 0x29
  | .ldB x       => encXkk 0xF x 0x33
  | .ldMemVx x   => encXkk 0xF x 0x55
  | .ldVxMem x   => encXkk 0xF x 0x65

/-! ### Over bytes (rules R61, R90) -/

/-- The word of two bytes, the byte at the lower address first: bits 15-8, then bits 7-0 (rule R61). -/
def wordOfBytes (hi lo : Byte) : Word := place 8 hi ||| place 0 lo

/-- The byte at the lower address, bits 15-8. -/
def highByte (w : Word) : Byte := w.extractLsb' 8 8

/-- The byte at the higher address, bits 7-0. -/
def lowByte (w : Word) : Byte := w.extractLsb' 0 8

/-- Decode the first instruction of any byte sequence and return the bytes after it. -/
def decodeBytes : List Byte → Except DecodeError (Instr × List Byte)
  | hi :: lo :: rest => (decode (wordOfBytes hi lo)).map fun i => (i, rest)
  | [_]              => .error (.truncated 1)
  | []               => .error (.truncated 0)

/-- The two bytes of an instruction in memory order. -/
def encodeBytes (i : Instr) : List Byte := [highByte (encode i), lowByte (encode i)]

/-! ### The opcode map as mask and match (rule R97) -/

/-- The mask and match of the row an instruction stands for, as rule R97's columns give them. -/
def Instr.maskMatch : Instr → Word × Word
  | .cls        => (0xFFFF, 0x00E0)
  | .ret        => (0xFFFF, 0x00EE)
  | .jp _       => (0xF000, 0x1000)
  | .call _     => (0xF000, 0x2000)
  | .seImm _ _  => (0xF000, 0x3000)
  | .sneImm _ _ => (0xF000, 0x4000)
  | .seReg _ _  => (0xF00F, 0x5000)
  | .ldImm _ _  => (0xF000, 0x6000)
  | .addImm _ _ => (0xF000, 0x7000)
  | .ldReg _ _  => (0xF00F, 0x8000)
  | .orReg _ _  => (0xF00F, 0x8001)
  | .andReg _ _ => (0xF00F, 0x8002)
  | .xorReg _ _ => (0xF00F, 0x8003)
  | .addReg _ _ => (0xF00F, 0x8004)
  | .sub _ _    => (0xF00F, 0x8005)
  | .shr _ _    => (0xF00F, 0x8006)
  | .subn _ _   => (0xF00F, 0x8007)
  | .shl _ _    => (0xF00F, 0x800E)
  | .sneReg _ _ => (0xF00F, 0x9000)
  | .ldI _      => (0xF000, 0xA000)
  | .jpV0 _     => (0xF000, 0xB000)
  | .rnd _ _    => (0xF000, 0xC000)
  | .drw _ _ _  => (0xF000, 0xD000)
  | .skp _      => (0xF0FF, 0xE09E)
  | .sknp _     => (0xF0FF, 0xE0A1)
  | .ldVxDt _   => (0xF0FF, 0xF007)
  | .ldVxK _    => (0xF0FF, 0xF00A)
  | .ldDtVx _   => (0xF0FF, 0xF015)
  | .ldStVx _   => (0xF0FF, 0xF018)
  | .addI _     => (0xF0FF, 0xF01E)
  | .ldF _      => (0xF0FF, 0xF029)
  | .ldB _      => (0xF0FF, 0xF033)
  | .ldMemVx _  => (0xF0FF, 0xF055)
  | .ldVxMem _  => (0xF0FF, 0xF065)

/-- The mask and match columns of rule R97, row by row. -/
def opcodeRows : List (Word × Word) :=
  [(0xFFFF, 0x00E0), (0xFFFF, 0x00EE), (0xF000, 0x1000), (0xF000, 0x2000), (0xF000, 0x3000), (0xF000, 0x4000)] ++
  [(0xF00F, 0x5000), (0xF000, 0x6000), (0xF000, 0x7000), (0xF00F, 0x8000), (0xF00F, 0x8001), (0xF00F, 0x8002)] ++
  [(0xF00F, 0x8003), (0xF00F, 0x8004), (0xF00F, 0x8005), (0xF00F, 0x8006), (0xF00F, 0x8007), (0xF00F, 0x800E)] ++
  [(0xF00F, 0x9000), (0xF000, 0xA000), (0xF000, 0xB000), (0xF000, 0xC000), (0xF000, 0xD000), (0xF0FF, 0xE09E)] ++
  [(0xF0FF, 0xE0A1), (0xF0FF, 0xF007), (0xF0FF, 0xF00A), (0xF0FF, 0xF015), (0xF0FF, 0xF018), (0xF0FF, 0xF01E)] ++
  [(0xF0FF, 0xF029), (0xF0FF, 0xF033), (0xF0FF, 0xF055), (0xF0FF, 0xF065)]

/-! ### The host's view of a table word -/

/-- The word of a row of `spec/opcode_table.json`: the low `nbits` bits of `w`, and of those the first 16 (rule R90: every
instruction is one 16-bit word); the bits above `nbits` are 0. -/
def tableWord (nbits w : Nat) : Word := BitVec.ofNat 16 (w % 2 ^ nbits)

/-- What the decoder reads from the two bytes of a table word laid out as the hardware stores them, high byte at the
lower address (rule R61). -/
def decodeTableWord (nbits w : Nat) : Option Instr :=
  match decodeBytes [highByte (tableWord nbits w), lowByte (tableWord nbits w)] with
  | .ok (i, _) => some i
  | .error _   => none

end Sys2Proof
end

