-- ==== Sys2Proof/Machine/State.lean ====
section
/-! DEFINITION. The machine state as plain data (`10_state.md` rules R20 to R34), the fault record, the outcomes'
reasons, the host events (`40_step_and_cycle.md` rule R119) and the state after reset (rule R38). -/

namespace Sys2Proof.Machine

/-- The conditions that arise during a step and put the machine in the Faulted state (`60_exceptions.md` rule R260,
codes 1, 2, 3, 6, 7, 8). Codes 4 and 5 never stand in a fault record: they are constructors of `Fault`. -/
inductive Cause where
  | unknownInstruction
  | stackUnderflow
  | stackOverflow
  | fetchOutOfBounds
  | memoryOutOfBounds
  | keyIndexOutOfRange
deriving DecidableEq, Repr

/-- The fault record `(cause, word, fault_pc, info)` (rule R34): `word` is absent for `fetchOutOfBounds`, `info` is the
extra value of rule R260's table where the cause records one. -/
structure FaultRecord where
  cause   : Cause
  word    : Option Word
  faultPc : Word
  info    : Option Nat
deriving DecidableEq, Repr

/-- `run_state` (rule R31): the execution-blocking latch with its target register. -/
inductive RunState where
  | running
  | waitingForKey (target : Nibble)
deriving DecidableEq, Repr

/-- The 4096 bytes of memory (rule R32, `20_memory.md` rule R60) as the list of the (address, byte) pairs that differ
from what an unlisted address reads as; its canonical form is `Memory.wf` and its operations are in `Ops.lean`. -/
structure Memory where
  cells : List Host.Cell
deriving DecidableEq, Repr

/-- The display (rule R28): 32 rows, top row first, of 64 one-bit cells; bit `cx` of row `cy` is the cell of column
`cx`, which the spec numbers `display[cy*64 + cx]`. -/
abbrev Display := Vector (BitVec 64) 32

/-- The events the host delivers, one at a time (`40_step_and_cycle.md` rules R119, R135). A key code is 4 bits wide, so
no code outside 0-15 can be presented (rule R135). -/
inductive HostEvent where
  /-- `Reset(ROM)` with the parameters `IPT` and `FONT` (`70_reset_and_hazards.md` rule R301) -/
  | reset (p : Params) (rom : List Byte)
  /-- `Cycle` (rule R130) -/
  | cycle
  /-- `KeyDown(code)` (rule R133) -/
  | keyDown (code : Nibble)
  /-- `KeyUp(code)` (rule R134) -/
  | keyUp (code : Nibble)
  /-- `Snapshot` (rule R136) -/
  | snapshot
deriving DecidableEq, Repr

/-- The machine state: the parts of rule R20, then the fields this model adds (log entries 4, 5, 6). -/
structure State where
  /-- `V[0]` to `V[15]` (rule R21); `V[15]` is `VF` (rule R22). -/
  v        : Vector Byte 16
  /-- The address register `I` (rule R23). -/
  i        : Word
  /-- The program counter (rule R24). -/
  pc       : Word
  /-- The call stack, outside memory (rule R26). -/
  stack    : Vector Word 16
  /-- The next free slot, 0 to 16 (rule R27). -/
  sp       : Fin 17
  /-- The display cells (rule R28). -/
  display  : Display
  /-- The key states, true = pressed (rule R29). -/
  keypad   : Vector Bool 16
  /-- The delay timer (rule R30). -/
  dt       : Byte
  /-- The sound timer (rule R30). -/
  st       : Byte
  /-- The execution-blocking latch (rule R31). -/
  runState : RunState
  /-- The fault latch (rule R34). -/
  fault    : Option FaultRecord
  /-- Memory (rule R32). -/
  mem      : Memory
  /-- The parameters of the last reset (`00_scope.md` rule R6); the document lists `instructions_per_tick` among the
  machine's fields (rule R20). Nothing but a reset writes them. -/
  params   : Params
  /-- The model's own field (log entry 4): `none` between two host events; `some k` inside a `Cycle` whose last `k`
  slots have not run yet (rule R130). -/
  slotsLeft : Option Nat
  /-- The model's own field (log entry 4): the events the host has still to deliver, oldest first. -/
  inputs   : List HostEvent
  /-- The model's own field (log entry 5): bytes the host's generator has supplied and no `Cxkk` has drawn yet. -/
  randIn   : List Byte
  /-- The model's own field (log entry 5): how many free bytes have been drawn. -/
  draws    : Nat
deriving DecidableEq, Repr

/-- The two faults of rule R260 that arise at the host's boundary and leave the state untouched (codes 4 and 5). No step
and no instruction answers with one: every fault of a step is a next state that holds a fault record (rule R262). -/
inductive Fault where
  /-- Code 4, `ProgramTooLarge`: raised by `resetCall` for an image longer than 3584 bytes (rule R268); `length` is the
  `info` of the report. Safe: nothing changes, as the spec says. -/
  | programTooLarge (length : Nat)
  /-- Code 5, `InvalidKeyCode`: raised by `keyDownCall` and `keyUpCall`, the host-side wrappers that accept wider
  integers, for a code above 15 (rule R269). Safe: nothing changes, as the spec says. -/
  | invalidKeyCode (code : Nat)
deriving DecidableEq, Repr

/-- Reasons to give no meaning. -/
inductive Refusal where
  /-- An instruction without a meaning in `exec`. No arm of `exec` uses it: all 34 instructions are modelled. Safe. -/
  | notModelled (mnemonic : String)
  /-- Raised by `hostCall` when an event other than `Reset` is delivered to a machine that has never been successfully
  reset and so has no state (rules R268, R303). Safe. -/
  | neverReset
deriving DecidableEq, Repr

/-- The machine right after `Reset` with the default parameters and an empty program image (`10_state.md` rule R38). The
values the document does not state (`V`, `I`, `sp`, `stack`, `display`, `keypad`, `dt`, `st`, spare memory) are the
spec's decision D2 (log entry 2). Memory lists nothing: an unlisted address reads as its reset contents. The last four
fields are the model's own (log entries 4, 5). -/
def State.reset : State where
  v         := Vector.replicate 16 0#8
  i         := 0x0000#16
  pc        := 0x0200#16
  stack     := Vector.replicate 16 0#16
  sp        := 0
  display   := Vector.replicate 32 0#64
  keypad    := Vector.replicate 16 false
  dt        := 0x00#8
  st        := 0x00#8
  runState  := .running
  fault     := none
  mem       := ⟨[]⟩
  params    := Params.default
  slotsLeft := none
  inputs    := []
  randIn    := []
  draws     := 0

end Sys2Proof.Machine
end

