-- ==== Sys2Proof/Machine/Ops.lean ====
section
/-! DEFINITION. The named operations over memory, registers, stack, display, keypad, timers and the random source, and
raising a fault. Every meaning is written over these. -/

namespace Sys2Proof.Machine

/-! ### Memory (`20_memory.md`) -/

/-- What an address that is not listed reads as: the reset contents of memory with the default font and an empty image
(`10_state.md` rules R33, R38): the font in 0x000-0x04F, zero elsewhere (log entries 2, 3). -/
def Memory.unlisted (a : Nat) : Byte := if h : a < 80 then Config.defaultFont[a] else 0#8

/-- The byte a list of cells holds for an address. -/
def Memory.lookup : List Host.Cell → Nat → Option Byte
  | [], _ => none
  | (k, b) :: cs, a => if k = a then some b else Memory.lookup cs a

/-- `memory[a]`, the raw storage behind rule R63; every caller has checked `a ≤ 0xFFF`. -/
def Memory.byte (m : Memory) (a : Nat) : Byte := (Memory.lookup m.cells a).getD (Memory.unlisted a)

/-- Put a byte into a list of cells in address order, listing it only if it differs from what an unlisted address reads
as. -/
def Memory.put : List Host.Cell → Nat → Byte → List Host.Cell
  | [], a, b => if b = Memory.unlisted a then [] else [(a, b)]
  | (k, c) :: cs, a, b =>
    if a < k then (if b = Memory.unlisted a then (k, c) :: cs else (a, b) :: (k, c) :: cs)
    else if a = k then (if b = Memory.unlisted a then cs else (a, b) :: cs)
    else (k, c) :: Memory.put cs a b

/-- `memory[a] <- b`, the raw storage behind rule R64; every caller has checked `a ≤ 0xFFF`, and an address outside
memory is never stored to (rule R35 item 7). -/
def Memory.write (m : Memory) (a : Nat) (b : Byte) : Memory :=
  if a < Config.memSize then ⟨Memory.put m.cells a b⟩ else m

/-- `MemRead(a, 1)` of rule R63: no value outside 0x000-0xFFF. -/
def Memory.readChecked (m : Memory) (a : Nat) : Option Byte := if a ≤ 0xFFF then some (m.byte a) else none

/-- `MemWrite(a, 1, b)` of rule R64: no memory outside 0x000-0xFFF. -/
def Memory.writeChecked (m : Memory) (a : Nat) (b : Byte) : Option Memory := if a ≤ 0xFFF then some (m.write a b) else none

/-- Store bytes at ascending addresses from `a` (rule R62). -/
def Memory.writeBytes (m : Memory) (a : Nat) : List Byte → Memory
  | [] => m
  | b :: bs => Memory.writeBytes (m.write a b) (a + 1) bs

/-- `Fetch16(a)`, big-endian (rule R61). -/
def Memory.fetch16 (m : Memory) (a : Nat) : Word := wordOfBytes (m.byte a) (m.byte (a + 1))

/-- The canonical form: addresses strictly rising and inside memory, no entry equal to what an unlisted address reads
as. -/
abbrev Memory.wf (m : Memory) : Prop :=
  m.cells.Pairwise (fun p q => p.1 < q.1) ∧ ∀ p ∈ m.cells, p.1 < 4096 ∧ p.2 ≠ Memory.unlisted p.1

/-- Memory after a reset with this font and image (`70_reset_and_hazards.md` rule R301): zero, then the font from 0x000,
then the image from 0x200. -/
def Memory.image (font : Vector Byte 80) (rom : List Byte) : Memory :=
  ((Memory.mk []).writeBytes 0 font.toList).writeBytes Config.progBase rom

/-! ### Registers (`10_state.md` rules R21 to R25) -/

/-- `V[x]`. -/
def State.readV (s : State) (x : Nibble) : Byte := s.v[x.toNat]'(x.isLt)

/-- `V[x] <- b`. -/
def State.setV (s : State) (x : Nibble) (b : Byte) : State := { s with v := s.v.set x.toNat b x.isLt }

/-- `VF <- b` (rule R22). -/
def State.setVF (s : State) (b : Byte) : State := s.setV 15#4 b

/-- `I <- w` (rule R23). -/
def State.setI (s : State) (w : Word) : State := { s with i := w }

/-- `pc <- w` (rule R24). -/
def State.setPc (s : State) (w : Word) : State := { s with pc := w }

/-- `pc <- pc + 2`: the advance before every body (rule R122), and a taken skip (rule R25). -/
def State.advance (s : State) : State := { s with pc := s.pc + 2#16 }

/-- `memory <- m`. -/
def State.setMem (s : State) (m : Memory) : State := { s with mem := m }

/-! ### Stack (`10_state.md` rules R26, R27) -/

/-- `stack[sp] <- w; sp <- sp + 1`, for a stack that is not full. -/
def State.push (s : State) (w : Word) (h : s.sp.val < 16) : State :=
  { s with stack := s.stack.set s.sp.val w h, sp := ⟨s.sp.val + 1, by omega⟩ }

/-- The top of a stack that is not empty. -/
def State.top (s : State) (h : 0 < s.sp.val) : Word := s.stack[s.sp.val - 1]'(by omega)

/-- `sp <- sp - 1; stack[sp] <- 0x0000`, for a stack that is not empty (`41_flow.md` rule R151). -/
def State.pop (s : State) (h : 0 < s.sp.val) : State :=
  { s with stack := s.stack.set (s.sp.val - 1) 0#16 (by omega), sp := ⟨s.sp.val - 1, by omega⟩ }

/-! ### Display (`10_state.md` rule R28) -/

/-- `display[idx]`, `idx = cy*64 + cx`. -/
def Display.cell (d : Display) (idx : Nat) : Bool :=
  if h : idx / 64 < 32 then d[idx / 64].getLsbD (idx % 64) else false

/-- `display[idx] <- display[idx] XOR 1`. -/
def Display.toggle (d : Display) (idx : Nat) : Display :=
  if h : idx / 64 < 32 then d.set (idx / 64) (d[idx / 64] ^^^ BitVec.twoPow 64 (idx % 64)) else d

/-- All cells 0. -/
def Display.clear : Display := Vector.replicate 32 0#64

/-- `display <- d`. -/
def State.setDisplay (s : State) (d : Display) : State := { s with display := d }

/-- `display_out`, what the `Snapshot` event returns: the 2048 cells, row-major (`40_step_and_cycle.md` rule R136). -/
def State.snapshot (s : State) : List Bool := (List.range 2048).map (Display.cell s.display)

/-! ### Keypad, timers, wait latch, sound output -/

/-- `keypad[c]` (rule R29). -/
def State.readKey (s : State) (c : Nibble) : Bool := s.keypad[c.toNat]'(c.isLt)

/-- `keypad[c] <- b`. -/
def State.setKey (s : State) (c : Nibble) (b : Bool) : State := { s with keypad := s.keypad.set c.toNat b c.isLt }

/-- `dt <- b` (rule R30). -/
def State.setDt (s : State) (b : Byte) : State := { s with dt := b }

/-- `st <- b` (rule R30). -/
def State.setSt (s : State) (b : Byte) : State := { s with st := b }

/-- `run_state <- r` (rule R31). -/
def State.setRun (s : State) (r : RunState) : State := { s with runState := r }

/-- `sound_active` (`45_keypad_timers.md` rule R249). -/
def State.soundActive (s : State) : Bool := decide (s.st ≠ 0#8)

/-! ### The random source (`00_scope.md` rule R6, `42_alu.md` rule R184) -/

/-- The byte the next draw gives: the oldest byte the host's generator has supplied, and when there is none a free value
(log entry 5). -/
def State.nextRandom (s : State) : Byte :=
  match s.randIn with
  | b :: _ => b
  | [] => Config.randomByte s.draws

/-- The state after one draw: exactly one byte is used. -/
def State.afterDraw (s : State) : State :=
  match s.randIn with
  | _ :: bs => { s with randIn := bs }
  | [] => { s with draws := s.draws + 1 }

/-! ### Raising a fault (`60_exceptions.md` rules R260 to R263) -/

/-- The code of a cause (rule R260). -/
def Cause.code : Cause → Nat
  | .unknownInstruction => 1
  | .stackUnderflow     => 2
  | .stackOverflow      => 3
  | .fetchOutOfBounds   => 6
  | .memoryOutOfBounds  => 7
  | .keyIndexOutOfRange => 8

/-- The code of a fault that is reported at the boundary (rule R260). -/
def Fault.code : Fault → Nat
  | .programTooLarge _ => 4
  | .invalidKeyCode _  => 5

/-- `raise` (rule R262): the fault record is latched and nothing else changes; the Faulted state of rule R263 follows
from `fault` alone. There is no handler, no vector and no saved `pc` (rule R276), and no return from a fault: only a
reset clears the latch (rule R277). -/
def State.raise (s : State) (cause : Cause) (word : Option Word) (faultPc : Word) (info : Option Nat) : State :=
  { s with fault := some { cause := cause, word := word, faultPc := faultPc, info := info } }

/-- `raise` in the body of instruction `ins`. A body runs on the state whose `pc` has advanced (rule R122), so the fetch
address `fpc` is `pc - 2`; the word the step fetched is the encoding of the instruction it decoded. -/
def State.raiseIn (s : State) (ins : Instr) (cause : Cause) (info : Option Nat) : State :=
  s.raise cause (some (encode ins)) (s.pc - 2#16) info

/-- The check every memory instruction makes before it writes anything (`43_index_memory.md` rule R199): its highest
address is `I + last`, a natural number that never wraps. -/
def State.spanFits (s : State) (last : Nat) : Bool := decide (s.i.toNat + last ≤ 0xFFF)

/-- The `info` of `MemoryOutOfBounds`: the lowest address out of range, `max(I, 0x1000)` (rules R199, R260). -/
def State.lowestOutside (s : State) : Nat := max s.i.toNat 0x1000

/-- `MemoryOutOfBounds` in instruction `ins` (rule R270). -/
def State.raiseMemory (s : State) (ins : Instr) : State :=
  s.raiseIn ins .memoryOutOfBounds (some s.lowestOutside)

end Sys2Proof.Machine
end

