-- ==== Sys2Proof/Machine/Flags.lean ====
section
/-! DEFINITION. The values written to `VF`, the machine's only flag (`10_state.md` rule R22). -/

namespace Sys2Proof.Machine

/-- 1 or 0 as a byte. -/
def flagByte (b : Bool) : Byte := if b then 1#8 else 0#8

/-- `8xy4`: 1 if the 16-bit sum exceeds 255 (`42_alu.md` rule R178). -/
def carryFlag (a b : Byte) : Byte := flagByte (decide ((zextByte a + zextByte b).toNat > 255))

/-- `8xy5` and `8xy7`: 1 if the minuend is strictly greater than the subtrahend (rules R169, R179, R181). -/
def greaterFlag (minuend subtrahend : Byte) : Byte := flagByte (decide (minuend.toNat > subtrahend.toNat))

/-- `8xy6`: the whole low nibble of the unshifted value, not the bit shifted out (rule R180). -/
def shrFlag (a : Byte) : Byte := a &&& 0x0F#8

/-- `8xyE`: 0x00 or 0x80, not normalised (rule R182). -/
def shlFlag (a : Byte) : Byte := a &&& 0x80#8

/-- `Dxyn`: 1 if any cell went from 1 to 0 (`44_display.md` rule R222). -/
def collisionFlag (hit : Bool) : Byte := flagByte hit

end Sys2Proof.Machine
end

