-- ==== Sys2Proof/Machine/Operands.lean ====
section
/-! DEFINITION. The operand forms an instruction computes from its fields and the state: skip conditions, the register
count of `Fx55`/`Fx65`, the bytes stored, the sprite's pixels. -/

namespace Sys2Proof.Machine

/-- A skip whose condition is `c`: `pc <- pc + 2` a second time if it holds (`41_flow.md` rule R150). -/
def State.skipIf (s : State) (c : Bool) : State := if c then s.advance else s

/-- The decimal digits of a byte, hundreds, tens, ones (`43_index_memory.md` rule R203). -/
def bcdDigits (b : Byte) : List Byte := [b / 100#8, (b / 10#8) % 10#8, b % 10#8]

/-- What `Fx55` stores at offset `k`: `V[k]` for 0-15 and zero beyond (rule R204). -/
def State.dumpByte (s : State) (k : Nat) : Byte := if h : k < 16 then s.v[k] else 0#8

/-- The `k + 1` bytes of a register dump (rule R204). -/
def State.dumpBytes (s : State) (k : Nat) : List Byte := (List.range (k + 1)).map s.dumpByte

/-- `V[j] <- memory[I + j]` for `j = 0, ..., m` (rule R205). -/
def State.loadRegs (s : State) (m : Nat) : State :=
  { s with v := Vector.ofFn fun j => if j.val ≤ m then s.mem.byte (s.i.toNat + j.val) else s.v[j.val] }

/-- The index of the last register `Fx65` loads: `min(V[x], 15)` (rule R205). -/
def loadLast (count : Byte) : Nat := min count.toNat 15

/-- The display index of sprite pixel `(col, row)` drawn at `(vx, vy)`, both coordinates wrapping (`44_display.md` rule
R221). -/
def pixelIndex (vx vy : Byte) (row col : Nat) : Nat :=
  ((vy.toNat + row) % 32) * 64 + ((vx.toNat + col) % 64)

/-- The indices one sprite row toggles: its set bits, bit 7 leftmost (rule R221). -/
def rowPixels (vx vy : Byte) (row : Nat) (b : Byte) : List Nat :=
  ((List.range 8).filter fun col => b.getLsbD (7 - col)).map (pixelIndex vx vy row)

/-- The indices a sprite of `n` rows at `memory[I]` toggles, in drawing order (rule R222). -/
def State.spritePixels (s : State) (vx vy : Byte) (n : Nat) : List Nat :=
  (List.range n).flatMap fun row => rowPixels vx vy row (s.mem.byte (s.i.toNat + row))

/-- Toggle the cells of a list one after the other, remembering whether any was 1 (rule R222). -/
def Display.draw (d : Display) (hit : Bool) : List Nat → Display × Bool
  | [] => (d, hit)
  | idx :: rest => Display.draw (d.toggle idx) (hit || d.cell idx) rest

end Sys2Proof.Machine
end

