-- ==== Sys2Proof/Machine/Alu.lean ====
section
/-! DEFINITION. Register load, arithmetic, logic, shift and random instructions (`42_alu.md`). Where a rule lists a `VF`
write and a `V[x]` write, the second reads the registers as the first left them (rules R10, R169; log entry 7). -/

namespace Sys2Proof.Machine

/-- `6xkk` (rule R170). -/
def execLdImm (x : Nibble) (kk : Byte) (s : State) : Host.Outcome State Fault Refusal :=
  .next (s.setV x kk)

/-- `7xkk` (rule R171): no flag. -/
def execAddImm (x : Nibble) (kk : Byte) (s : State) : Host.Outcome State Fault Refusal :=
  .next (s.setV x (s.readV x + kk))

/-- `8xy0` (rule R174). -/
def execLdReg (x y : Nibble) (s : State) : Host.Outcome State Fault Refusal :=
  .next (s.setV x (s.readV y))

/-- `8xy1` (rule R175): no flag. -/
def execOrReg (x y : Nibble) (s : State) : Host.Outcome State Fault Refusal :=
  .next (s.setV x (s.readV x ||| s.readV y))

/-- `8xy2` (rule R176): no flag. -/
def execAndReg (x y : Nibble) (s : State) : Host.Outcome State Fault Refusal :=
  .next (s.setV x (s.readV x &&& s.readV y))

/-- `8xy3` (rule R177): no flag. -/
def execXorReg (x y : Nibble) (s : State) : Host.Outcome State Fault Refusal :=
  .next (s.setV x (s.readV x ^^^ s.readV y))

/-- `8xy4` (rule R178): the sum is taken before any write. -/
def execAddReg (x y : Nibble) (s : State) : Host.Outcome State Fault Refusal :=
  .next ((s.setVF (carryFlag (s.readV x) (s.readV y))).setV x (s.readV x + s.readV y))

/-- `V[x] <- (V[x] - V[y]) mod 256` on the state the flag write left (rule R179). -/
def State.subInto (s : State) (x y : Nibble) : State := s.setV x (s.readV x - s.readV y)

/-- `8xy5` (rule R179). -/
def execSub (x y : Nibble) (s : State) : Host.Outcome State Fault Refusal :=
  .next ((s.setVF (greaterFlag (s.readV x) (s.readV y))).subInto x y)

/-- `V[x] <- V[x] >> 1`, bit 7 becomes 0 (rule R180). -/
def State.shrInto (s : State) (x : Nibble) : State := s.setV x (s.readV x >>> 1)

/-- `8xy6` (rule R180): the value shifted is `V[x]`, never `V[y]`. -/
def execShr (x : Nibble) (s : State) : Host.Outcome State Fault Refusal :=
  .next ((s.setVF (shrFlag (s.readV x))).shrInto x)

/-- `V[x] <- (V[y] - V[x]) mod 256` on the state the flag write left (rule R181). -/
def State.subnInto (s : State) (x y : Nibble) : State := s.setV x (s.readV y - s.readV x)

/-- `8xy7` (rule R181). -/
def execSubn (x y : Nibble) (s : State) : Host.Outcome State Fault Refusal :=
  .next ((s.setVF (greaterFlag (s.readV y) (s.readV x))).subnInto x y)

/-- `V[x] <- (V[x] << 1) mod 256` (rule R182). -/
def State.shlInto (s : State) (x : Nibble) : State := s.setV x (s.readV x <<< 1)

/-- `8xyE` (rule R182). -/
def execShl (x : Nibble) (s : State) : Host.Outcome State Fault Refusal :=
  .next ((s.setVF (shlFlag (s.readV x))).shlInto x)

/-- `Cxkk` (rule R184): one byte is drawn. -/
def execRnd (x : Nibble) (kk : Byte) (s : State) : Host.Outcome State Fault Refusal :=
  .next (s.afterDraw.setV x (s.nextRandom &&& kk))

end Sys2Proof.Machine
end

