-- ==== Sys2Proof/Machine/Index.lean ====
section
/-! DEFINITION. Address register and memory instructions (`43_index_memory.md`). -/

namespace Sys2Proof.Machine

/-- `Annn` (rule R200). -/
def execLdI (nnn : Addr12) (s : State) : Host.Outcome State Fault Refusal :=
  .next (s.setI (zextAddr nnn))

/-- `Fx1E` (rule R201): a 16-bit add, no flag. -/
def execAddI (x : Nibble) (s : State) : Host.Outcome State Fault Refusal :=
  .next (s.setI (s.i + zextByte (s.readV x)))

/-- `Fx29` (rule R202): the whole byte is multiplied. -/
def execLdF (x : Nibble) (s : State) : Host.Outcome State Fault Refusal :=
  .next (s.setI (zextByte (s.readV x) * 5#16))

/-- `Fx33` (rule R203). -/
def execLdB (x : Nibble) (s : State) : Host.Outcome State Fault Refusal :=
  if s.spanFits 2 then .next (s.setMem (s.mem.writeBytes s.i.toNat (bcdDigits (s.readV x))))
  else .next (s.raiseMemory (.ldB x))

/-- `Fx55` (rule R204): the count is the value of `V[x]`, not the field `x`. -/
def execLdMemVx (x : Nibble) (s : State) : Host.Outcome State Fault Refusal :=
  if s.spanFits (s.readV x).toNat then
    .next (s.setMem (s.mem.writeBytes s.i.toNat (s.dumpBytes (s.readV x).toNat)))
  else .next (s.raiseMemory (.ldMemVx x))

/-- `Fx65` (rule R205): the count is taken once, before any register is loaded; indices above 15 are skipped. -/
def execLdVxMem (x : Nibble) (s : State) : Host.Outcome State Fault Refusal :=
  if s.spanFits (loadLast (s.readV x)) then .next (s.loadRegs (loadLast (s.readV x)))
  else .next (s.raiseMemory (.ldVxMem x))

end Sys2Proof.Machine
end

