-- ==== Sys2Proof/Machine/KeypadTimers.lean ====
section
/-! DEFINITION. Keypad and timer instructions (`45_keypad_timers.md`). -/

namespace Sys2Proof.Machine

/-- `KeyIndexOutOfRange` in instruction `ins`, whose key code is `code` (`60_exceptions.md` rule R271). -/
def State.raiseKey (s : State) (ins : Instr) (code : Byte) : State :=
  s.raiseIn ins .keyIndexOutOfRange (some code.toNat)

/-- `Ex9E` (rule R240): the key code is the whole register. -/
def execSkp (x : Nibble) (s : State) : Host.Outcome State Fault Refusal :=
  if (s.readV x).toNat > 15 then .next (s.raiseKey (.skp x) (s.readV x))
  else .next (s.skipIf (s.readKey ((s.readV x).setWidth 4)))

/-- `ExA1` (rule R241). -/
def execSknp (x : Nibble) (s : State) : Host.Outcome State Fault Refusal :=
  if (s.readV x).toNat > 15 then .next (s.raiseKey (.sknp x) (s.readV x))
  else .next (s.skipIf (!s.readKey ((s.readV x).setWidth 4)))

/-- `Fx0A` (rule R242): the register is written later, by the key press. -/
def execLdVxK (x : Nibble) (s : State) : Host.Outcome State Fault Refusal :=
  .next (s.setRun (.waitingForKey x))

/-- `Fx07` (rule R243; the direction is PRESUMED, log entry 9). -/
def execLdVxDt (x : Nibble) (s : State) : Host.Outcome State Fault Refusal :=
  .next (s.setV x s.dt)

/-- `Fx15` (rule R244; the direction is PRESUMED, log entry 9). -/
def execLdDtVx (x : Nibble) (s : State) : Host.Outcome State Fault Refusal :=
  .next (s.setDt (s.readV x))

/-- `Fx18` (rule R245; the direction is PRESUMED, log entry 9). -/
def execLdStVx (x : Nibble) (s : State) : Host.Outcome State Fault Refusal :=
  .next (s.setSt (s.readV x))

end Sys2Proof.Machine
end

