-- ==== Sys2Proof/Machine/Video.lean ====
section
/-! DEFINITION. Display instructions (`44_display.md`). -/

namespace Sys2Proof.Machine

/-- `00E0` (rule R220). -/
def execCls (s : State) : Host.Outcome State Fault Refusal :=
  .next (s.setDisplay Display.clear)

/-- The sprite at `memory[I]` drawn at `(vx, vy)` with `n` rows: the display after it and whether any cell went from 1 to
0 (rule R222). -/
def State.drawn (s : State) (vx vy : Byte) (n : Nat) : Display × Bool :=
  s.display.draw false (s.spritePixels vx vy n)

/-- A sprite of `n` rows lies inside memory: `n = 0` reads nothing and always does (rule R222). -/
def State.spriteFits (s : State) (n : Nat) : Bool := n == 0 || s.spanFits (n - 1)

/-- `Dxyn` (rule R222): the coordinates are read first, before the flag is reset (log entry 8). -/
def execDrw (x y n : Nibble) (s : State) : Host.Outcome State Fault Refusal :=
  if s.spriteFits n.toNat then
    .next ((s.setDisplay (s.drawn (s.readV x) (s.readV y) n.toNat).1).setVF
      (collisionFlag (s.drawn (s.readV x) (s.readV y) n.toNat).2))
  else .next (s.raiseMemory (.drw x y n))

end Sys2Proof.Machine
end

