-- ==== Sys2Proof/Machine/Cycle.lean ====
section
/-! DEFINITION. The instruction step, the tick and the cycle (`40_step_and_cycle.md` rules R120 to R132): the cycle once
slot by slot, as the machine's step runs it, and once as the whole event of rule R130. -/

namespace Sys2Proof.Machine

/-- Go on with the next state of an outcome. -/
def andThen (o : Host.Outcome State Fault Refusal) (f : State → Host.Outcome State Fault Refusal) :
    Host.Outcome State Fault Refusal :=
  match o with
  | .next s    => f s
  | .fault r   => .fault r
  | .refused r => .refused r

/-- `Step()` of rule R120: fetch (R121), advance (R122), decode (R123), execute (R124). -/
def stepInstr (s : State) : Host.Outcome State Fault Refusal :=
  if s.pc.toNat > 0xFFE then .next (s.raise .fetchOutOfBounds none s.pc none)
  else
    match decode (s.mem.fetch16 s.pc.toNat) with
    | .error _ => .next (s.advance.raise .unknownInstruction (some (s.mem.fetch16 s.pc.toNat)) s.pc none)
    | .ok ins  => exec ins s.advance

/-- One slot of a cycle (rule R130): a step if the machine is running and not faulted, else idle. -/
def slot (s : State) : Host.Outcome State Fault Refusal :=
  if s.fault.isSome then .next s
  else match s.runState with
    | .running         => stepInstr s
    | .waitingForKey _ => .next s

/-- A saturating decrement: never below 0 (rule R131). -/
def countDown (b : Byte) : Byte := if b = 0#8 then b else b - 1#8

/-- `Tick()` (rule R131). -/
def State.tick (s : State) : State := { s with dt := countDown s.dt, st := countDown s.st }

/-- The place in the cycle: how many of its slots have still to run (`none` between events). -/
def State.setSlots (s : State) (k : Option Nat) : State := { s with slotsLeft := k }

/-- The end of a cycle (rule R130): the tick if the machine is neither faulted nor waiting; the event is over. -/
def State.endCycle (s : State) : State :=
  (if s.fault.isNone && s.runState == .running then s.tick else s).setSlots none

/-- After a slot with `k` slots to come (rule R130): a faulted machine leaves the cycle at once and without a tick; the
last slot is followed by the end of the cycle. -/
def State.afterSlot (s : State) (k : Nat) : State :=
  if s.fault.isSome then s.setSlots none
  else match k with
    | 0     => s.endCycle
    | k + 1 => s.setSlots (some (k + 1))

/-- Run the next slot of a cycle that has `k` slots left, and the cycle's end with the last one. -/
def runSlot (k : Nat) (s : State) : Host.Outcome State Fault Refusal :=
  match k with
  | 0     => .next s.endCycle
  | k + 1 => andThen (slot s) fun t => .next (t.afterSlot k)

/-- The first slot of a `Cycle` event delivered between events (rule R130): nothing happens in a Faulted machine. -/
def beginCycle (s : State) : Host.Outcome State Fault Refusal :=
  if s.fault.isSome then .next s else runSlot s.params.ipt s

/-- The slots of rule R130's loop. -/
def slots : Nat → State → Host.Outcome State Fault Refusal
  | 0, s => .next s
  | k + 1, s => if s.fault.isSome then .next s else andThen (slot s) (slots k)

/-- The whole `Cycle` event of rule R130 as one transition. -/
def cycle (s : State) : Host.Outcome State Fault Refusal :=
  if s.fault.isSome then .next s
  else andThen (slots s.params.ipt s) fun t => .next t.endCycle

end Sys2Proof.Machine
end

