-- ==== Sys2Proof/Machine/Events.lean ====
section
/-! DEFINITION. The host events other than the cycle: keys (`40_step_and_cycle.md` rules R133, R134), reset
(`70_reset_and_hazards.md` rules R300, R301), the boundary checks (`60_exceptions.md` rules R268, R269), and the delivery
of an event. -/

namespace Sys2Proof.Machine

/-- The capture of a key by a pending wait (rule R133). -/
def State.capture (s : State) (code : Nibble) : State :=
  match s.runState with
  | .running         => s
  | .waitingForKey t => (s.setV t (code.setWidth 8)).setRun .running

/-- `KeyDown(code)` (rule R133): only a down-edge does anything. -/
def State.keyDown (s : State) (code : Nibble) : State :=
  if s.fault.isSome || s.readKey code then s else (s.setKey code true).capture code

/-- `KeyUp(code)` (rule R134). -/
def State.keyUp (s : State) (code : Nibble) : State :=
  if s.fault.isSome then s else s.setKey code false

/-- The machine a reset with these parameters and image makes (rule R301), before anything is scheduled. -/
def State.afterReset (p : Params) (rom : List Byte) : State :=
  { State.reset with mem := Memory.image p.font rom, params := p }

/-- The `Reset(ROM)` call (rules R268, R301): an image that is too long is rejected and nothing changes. What the host
has still to deliver and the random source are the host's, and stay. -/
def resetCall (p : Params) (rom : List Byte) (s : State) : Host.Outcome State Fault Refusal :=
  if romFits rom then
    .next { State.afterReset p rom with inputs := s.inputs, randIn := s.randIn, draws := s.draws }
  else .fault (.programTooLarge rom.length)

/-- The host-side wrapper of `KeyDown` that accepts wider integers (rule R269). -/
def keyDownCall (code : Nat) (s : State) : Host.Outcome State Fault Refusal :=
  if keyCodeFits code then .next (s.keyDown (BitVec.ofNat 4 code)) else .fault (.invalidKeyCode code)

/-- The host-side wrapper of `KeyUp` that accepts wider integers (rule R269). -/
def keyUpCall (code : Nat) (s : State) : Host.Outcome State Fault Refusal :=
  if keyCodeFits code then .next (s.keyUp (BitVec.ofNat 4 code)) else .fault (.invalidKeyCode code)

/-- One event as one atomic transition with its report to the caller (rules R119, R135): the whole cycle for `Cycle`. -/
def eventCall (e : HostEvent) (s : State) : Host.Outcome State Fault Refusal :=
  match e with
  | .reset p rom  => resetCall p rom s
  | .cycle        => cycle s
  | .keyDown code => .next (s.keyDown code)
  | .keyUp code   => .next (s.keyUp code)
  | .snapshot     => .next s

/-- An event delivered to a machine that may never have been reset: it then has no state and accepts only `Reset` (rules
R268, R303). -/
def hostCall (e : HostEvent) : Option State → Host.Outcome State Fault Refusal
  | some s => eventCall e s
  | none =>
    match e with
    | .reset p rom => resetCall p rom State.reset
    | .cycle | .keyDown _ | .keyUp _ | .snapshot => .refused .neverReset

/-- The state after a call: a call that is rejected leaves the state it found (rules R268, R269). -/
def stateAfter (s : State) : Host.Outcome State Fault Refusal → State
  | .next t    => t
  | .fault _   => s
  | .refused _ => s

/-- The delivery of an event inside the machine's step: a `Cycle` runs its first slot, every other event is complete at
once, and a reset that is rejected changes nothing. -/
def deliver (e : HostEvent) (s : State) : Host.Outcome State Fault Refusal :=
  match e with
  | .reset p rom  => .next (stateAfter s (resetCall p rom s))
  | .cycle        => beginCycle s
  | .keyDown code => .next (s.keyDown code)
  | .keyUp code   => .next (s.keyUp code)
  | .snapshot     => .next s

/-- Take the oldest scheduled event off the schedule. -/
def State.setInputs (s : State) (es : List HostEvent) : State := { s with inputs := es }

/-- One step of the machine between two events: the oldest scheduled event is delivered, and when the schedule is empty
the host's cadence driver delivers a `Cycle` (log entry 4). -/
def nextEvent (s : State) : Host.Outcome State Fault Refusal :=
  match s.inputs with
  | []      => beginCycle s
  | e :: es => deliver e (s.setInputs es)

/-- One step of the machine: the next slot of the cycle in progress, else the next event. Inside a cycle no event is
looked at (rule R135). -/
def stepMachine (s : State) : Host.Outcome State Fault Refusal :=
  match s.slotsLeft with
  | some k => runSlot k s
  | none   => nextEvent s

/-- Where the next instruction is fetched: `pc`, or the entry point when `pc` is outside the fetch range (rule R121). -/
def State.fetchPlace (s : State) : Word := if s.pc.toNat ≤ 0xFFE then s.pc else 0x0200#16

/-- The cycle in progress with a slot to run, or a cycle just begun. -/
def State.openSlots (s : State) : Nat :=
  match s.slotsLeft with
  | some (k + 1) => k + 1
  | some 0       => max 1 s.params.ipt
  | none         => max 1 s.params.ipt

/-- The state whose very next step fetches and runs the word `w` (log entry 10): the word stands, high byte first (rule
R61), where the fetch looks; no fault is latched, the machine is running, and a slot of a cycle is open. -/
def State.withWord (s : State) (w : Word) : State :=
  { s with
    mem       := s.mem.writeBytes s.fetchPlace.toNat [highByte w, lowByte w]
    pc        := s.fetchPlace
    fault     := none
    runState  := .running
    slotsLeft := some s.openSlots }

end Sys2Proof.Machine
end

