-- ==== Sys2Proof/Safety.lean ====
section
/-! DEFINITION. What counts as a safe run, the invariant of the machine, and the words claims are stated in: the parts of
the state and what a transition keeps. -/

namespace Sys2Proof.Machine

/-! ### Runs -/

/-- `k` steps of the machine, stopping at the first that does not answer a next state. -/
def runSteps : Nat → State → Host.Outcome State Fault Refusal
  | 0, s     => .next s
  | k + 1, s => andThen (step s) (runSteps k)

/-- `k` steps that raise nothing: a claim about a program has no fault as a premise and shows that no step raises
(`60_exceptions.md` rule R263). -/
def SafeRun : Nat → State → Prop
  | 0, s => s.fault = none
  | k + 1, s => s.fault = none ∧ ∃ t, step s = .next t ∧ SafeRun k t

/-! ### Parts of the state and frames -/

/-- The parts of the state a frame speaks of (`10_state.md` rule R20, and the model's own fields). -/
inductive Part where
  | registers
  | index
  | pc
  | stack
  | display
  | keypad
  | delayTimer
  | soundTimer
  | runState
  | fault
  | memory
  | params
  | schedule
  | random
deriving DecidableEq, Repr

/-- A part reads the same before and after: every register, every byte of memory, every slot, every cell. -/
def Part.same : Part → State → State → Prop
  | .registers,  s, t => ∀ r, t.readV r = s.readV r
  | .index,      s, t => t.i = s.i
  | .pc,         s, t => t.pc = s.pc
  | .stack,      s, t => t.sp = s.sp ∧ t.stack = s.stack
  | .display,    s, t => ∀ idx, Display.cell t.display idx = Display.cell s.display idx
  | .keypad,     s, t => ∀ c, t.readKey c = s.readKey c
  | .delayTimer, s, t => t.dt = s.dt
  | .soundTimer, s, t => t.st = s.st
  | .runState,   s, t => t.runState = s.runState
  | .fault,      s, t => t.fault = s.fault
  | .memory,     s, t => ∀ a, t.mem.byte a = s.mem.byte a
  | .params,     s, t => t.params = s.params
  | .schedule,   s, t => t.slotsLeft = s.slotsLeft ∧ t.inputs = s.inputs
  | .random,     s, t => t.randIn = s.randIn ∧ t.draws = s.draws

/-- Everything outside the named parts is unchanged. -/
def KeepsAllBut (ps : List Part) (s t : State) : Prop := ∀ p, p ∉ ps → p.same s t

/-- Every register outside the named ones is unchanged. -/
def KeepsRegsBut (rs : List Nibble) (s t : State) : Prop := ∀ r, r ∉ rs → t.readV r = s.readV r

/-- Every byte of memory outside the `n` bytes from `a` reads as before. -/
def KeepsBytesBut (a n : Nat) (s t : State) : Prop := ∀ b, b < a ∨ a + n ≤ b → t.mem.byte b = s.mem.byte b

/-! ### The invariant -/

/-- The fault record `r` explains the frozen state `s`: the word, the fetch address and the extra value are the ones the
fault's rule gives (rules R34, R260, R262). -/
def Explains (s : State) (r : FaultRecord) : Prop :=
  match r.cause with
  | .fetchOutOfBounds => r.word = none ∧ r.info = none ∧ r.faultPc = s.pc ∧ 0xFFE < s.pc.toNat
  | c =>
    s.pc = r.faultPc + 2#16 ∧ r.faultPc.toNat ≤ 0xFFE ∧ r.word = some (s.mem.fetch16 r.faultPc.toNat) ∧
    match c, decode (s.mem.fetch16 r.faultPc.toNat) with
    | .unknownInstruction, .error _ => r.info = none
    | .stackUnderflow, .ok .ret => r.info = none ∧ s.sp.val = 0
    | .stackOverflow, .ok (.call _) => r.info = none ∧ s.sp.val = 16
    | .memoryOutOfBounds, .ok (.drw _ _ n) =>
      r.info = some (max s.i.toNat 0x1000) ∧ 0 < n.toNat ∧ 0xFFF < s.i.toNat + (n.toNat - 1)
    | .memoryOutOfBounds, .ok (.ldB _) => r.info = some (max s.i.toNat 0x1000) ∧ 0xFFF < s.i.toNat + 2
    | .memoryOutOfBounds, .ok (.ldMemVx x) =>
      r.info = some (max s.i.toNat 0x1000) ∧ 0xFFF < s.i.toNat + (s.readV x).toNat
    | .memoryOutOfBounds, .ok (.ldVxMem x) =>
      r.info = some (max s.i.toNat 0x1000) ∧ 0xFFF < s.i.toNat + min (s.readV x).toNat 15
    | .keyIndexOutOfRange, .ok (.skp x) => r.info = some (s.readV x).toNat ∧ 15 < (s.readV x).toNat
    | .keyIndexOutOfRange, .ok (.sknp x) => r.info = some (s.readV x).toNat ∧ 15 < (s.readV x).toNat
    | _, _ => False

/-- The invariant of the machine (rules R25, R26, R34, R35, R130, R262): what the spec says holds in every state
reachable from reset, strengthened to what every step keeps. -/
structure State.Inv (s : State) : Prop where
  /-- Memory is in its canonical form. -/
  memoryCanonical : s.mem.wf
  /-- Slots at `sp` and above hold 0x0000 (rules R26, R35 item 5). -/
  freeSlotsClear : ∀ k : Fin 16, s.sp.val ≤ k.val → s.stack[k] = 0#16
  /-- No return address exceeds 0x1000, the address after a call fetched from 0xFFE (rule R151). -/
  returnAddresses : ∀ k : Fin 16, (s.stack[k]).toNat ≤ 0x1000
  /-- `pc` never exceeds 0x10FE, so it never wraps (rule R25). -/
  pcBounded : s.pc.toNat ≤ 0x10FE
  /-- A cycle in progress has at least one and at most `IPT` slots left (rules R130, R132). -/
  slotsBounded : ∀ k, s.slotsLeft = some k → 1 ≤ k ∧ k ≤ s.params.ipt
  /-- A fault ends the cycle (rule R130). -/
  faultEndsCycle : s.fault ≠ none → s.slotsLeft = none
  /-- A latched record explains the frozen state (rules R34, R262). -/
  faultExplained : ∀ r, s.fault = some r → Explains s r

end Sys2Proof.Machine
end

