-- ==== Sys2Proof/Certificates/Slice0/Obligations.lean ====
section
/-! DEFINITION. The statements for the provers. A statement about an instruction is about `exec`, which runs on the state
whose `pc` has advanced to `fpc + 2` (`40_step_and_cycle.md` rule R122); `s.pc - 2` is then the fetch address. What an
instruction leaves unchanged rests on the spec's own decision D6 (log entry 11); what a fault records and that a faulting
instruction changes nothing else rests on its decision D10 (log entry 12). -/

namespace Sys2Proof.Machine

/-- The parts of the state an instruction may write, read off its rule in `41_flow.md` to `45_keypad_timers.md`; `fault`
stands where the rule has a check. The parts of `Fx07`, `Fx15` and `Fx18` follow the directions of log entry 9 (PRESUMED,
the spec's decision D16). -/
def partsWritten : Instr → List Part
  | .cls => [.display]
  | .ret => [.pc, .stack, .fault]
  | .jp _ => [.pc]
  | .call _ => [.pc, .stack, .fault]
  | .seImm _ _ => [.pc]
  | .sneImm _ _ => [.pc]
  | .seReg _ _ => [.pc]
  | .ldImm _ _ => [.registers]
  | .addImm _ _ => [.registers]
  | .ldReg _ _ => [.registers]
  | .orReg _ _ => [.registers]
  | .andReg _ _ => [.registers]
  | .xorReg _ _ => [.registers]
  | .addReg _ _ => [.registers]
  | .sub _ _ => [.registers]
  | .shr _ _ => [.registers]
  | .subn _ _ => [.registers]
  | .shl _ _ => [.registers]
  | .sneReg _ _ => [.pc]
  | .ldI _ => [.index]
  | .jpV0 _ => [.pc]
  | .rnd _ _ => [.registers, .random]
  | .drw _ _ _ => [.registers, .display, .fault]
  | .skp _ => [.pc, .fault]
  | .sknp _ => [.pc, .fault]
  | .ldVxDt _ => [.registers]
  | .ldVxK _ => [.runState]
  | .ldDtVx _ => [.delayTimer]
  | .ldStVx _ => [.soundTimer]
  | .addI _ => [.index]
  | .ldF _ => [.index]
  | .ldB _ => [.memory, .fault]
  | .ldMemVx _ => [.memory, .fault]
  | .ldVxMem _ => [.registers, .fault]

/-- The registers an instruction may write: its destination, and `VF` for the six instructions of `10_state.md` rule R22;
`Fx65` may load every register. -/
def regsWritten : Instr → List Nibble
  | .cls | .ret | .jp _ | .call _ | .seImm _ _ | .sneImm _ _ | .seReg _ _ | .sneReg _ _ | .ldI _ | .jpV0 _ => []
  | .skp _ | .sknp _ | .ldVxK _ | .ldDtVx _ | .ldStVx _ | .addI _ | .ldF _ | .ldB _ | .ldMemVx _ => []
  | .ldImm x _ | .addImm x _ | .ldReg x _ | .orReg x _ | .andReg x _ | .xorReg x _ | .rnd x _ | .ldVxDt x => [x]
  | .addReg x _ | .sub x _ | .shr x _ | .subn x _ | .shl x _ => [x, 15#4]
  | .drw _ _ _ => [15#4]
  | .ldVxMem _ => [0, 1, 2, 3, 4, 5, 6, 7, 8, 9, 10, 11, 12, 13, 14, 15]

/-- A state in which the next step runs an instruction and `k` slots of the cycle follow it: nothing is latched, and
either a cycle is in progress with this slot next, or the machine is between events with nothing scheduled and the cycle
begins with it (`40_step_and_cycle.md` rule R130; the empty schedule is the model's choice, log entry 4). -/
def SlotOpen (k : Nat) (s : State) : Prop :=
  s.fault = none ∧ s.runState = .running ∧
    (s.slotsLeft = some (k + 1) ∨ (s.slotsLeft = none ∧ s.inputs = [] ∧ s.params.ipt = k + 1))

/-- The next step delivers the event `e`: the machine is between two cycles and `e` is the oldest event scheduled (log entry
4). Inside a cycle no event is delivered (`40_step_and_cycle.md` rule R135). -/
def Delivers (s : State) (e : HostEvent) : Prop := s.slotsLeft = none ∧ ∃ es, s.inputs = e :: es

/-- Calls one after the other, each to its target. -/
def callAll : List Addr12 → State → Host.Outcome State Fault Refusal
  | [], s => .next s
  | nnn :: rest, s => andThen (exec (.call nnn) s) (callAll rest)

/-- The sprite pixel at `(row, col)` of an `n`-row sprite at `memory[I]` is set and, drawn at `(vx, vy)`, lands on the
cell `idx` (`44_display.md` rule R221). -/
def PixelOn (s : State) (vx vy n idx row col : Nat) : Prop :=
  row < n ∧ col < 8 ∧ (s.mem.byte (s.i.toNat + row)).getLsbD (7 - col) = true ∧
    idx = ((vy + row) % 32) * 64 + ((vx + col) % 64)

/-- Some set pixel of the sprite lands on the cell `idx`. -/
def SpriteCovers (s : State) (vx vy n idx : Nat) : Prop := ∃ row col, PixelOn s vx vy n idx row col

end Sys2Proof.Machine

open Sys2Proof Sys2Proof.Machine

/-! ### Encoding -/

/-- One word of each format, written out from the fields of `30_encoding.md` rules R91, R92 and from the decoder vectors
T30.*, decodes to its instruction, and words the vectors call unknown are rejected by name. -/
def Obligations.SampleWordsDecode : Prop :=
  decode 0x00E0#16 = .ok .cls ∧ decode 0x00EE#16 = .ok .ret ∧ decode 0x1ABC#16 = .ok (.jp 0xABC) ∧
  decode 0x3142#16 = .ok (.seImm 1 0x42) ∧ decode 0x6A3C#16 = .ok (.ldImm 10 0x3C) ∧
  decode 0x5120#16 = .ok (.seReg 1 2) ∧ decode 0x8F06#16 = .ok (.shr 15 0) ∧ decode 0x81FE#16 = .ok (.shl 1 15) ∧
  decode 0xDAB4#16 = .ok (.drw 10 11 4) ∧ decode 0xE1A1#16 = .ok (.sknp 1) ∧ decode 0xF265#16 = .ok (.ldVxMem 2) ∧
  decode 0x0000#16 = .error (.unknownWord 0x0000) ∧ decode 0x5121#16 = .error (.unknownWord 0x5121) ∧
  decode 0x8128#16 = .error (.unknownWord 0x8128) ∧ decode 0xF175#16 = .error (.unknownWord 0xF175)

/-- Every instruction, with every operand at every value its field admits, is read back from its word and from its two
bytes in front of any other bytes. -/
def Obligations.DecodeOfEncodeIsIdentity : Prop :=
  ∀ i : Instr, i.wf = true →
    decode (encode i) = .ok i ∧ ∀ rest, decodeBytes (encodeBytes i ++ rest) = .ok (i, rest)

/-- A word that decodes is the encoding of what it decodes to, the ignored field of the shifts included: no two words are
one instruction, so the word a fault records is the fetched one. -/
def Obligations.EncodeOfDecodeIsTheWord : Prop :=
  ∀ (w : Word) (i : Instr), decode w = .ok i → encode i = w

/-- The decoder agrees with the mask and match columns of `30_encoding.md` rule R97: an instruction's word matches its row, a word
is rejected, by its own name, exactly when it matches no row, and no word matches two rows. The match of all digits of
families 0, 5 and 9 is the spec's decision D15. -/
def Obligations.DecoderAgreesWithOpcodeRows : Prop :=
  ∀ w : Word,
    (∀ i, decode w = .ok i → i.maskMatch ∈ opcodeRows ∧ w &&& i.maskMatch.1 = i.maskMatch.2) ∧
    (decode w = .error (.unknownWord w) ↔ ∀ r ∈ opcodeRows, w &&& r.1 ≠ r.2) ∧
    (∀ r ∈ opcodeRows, ∀ q ∈ opcodeRows, w &&& r.1 = r.2 → w &&& q.1 = q.2 → r = q)

/-- The unknown words by family, as the table of `30_encoding.md` rule R99 lists them, over the word as a number. -/
def Obligations.UnknownWordsAreThoseOfTheFamilyTable : Prop :=
  ∀ w : Word, decode w = .error (.unknownWord w) ↔
    (w.toNat / 4096 = 0x0 ∧ w.toNat ≠ 0x00E0 ∧ w.toNat ≠ 0x00EE) ∨
    (w.toNat / 4096 = 0x5 ∧ w.toNat % 16 ≠ 0) ∨
    (w.toNat / 4096 = 0x8 ∧ w.toNat % 16 ∈ [0x8, 0x9, 0xA, 0xB, 0xC, 0xD, 0xF]) ∨
    (w.toNat / 4096 = 0x9 ∧ w.toNat % 16 ≠ 0) ∨
    (w.toNat / 4096 = 0xE ∧ w.toNat % 256 ∉ [0x9E, 0xA1]) ∨
    (w.toNat / 4096 = 0xF ∧ w.toNat % 256 ∉ [0x07, 0x0A, 0x15, 0x18, 0x1E, 0x29, 0x33, 0x55, 0x65])

/-- Fetch is big-endian (`20_memory.md` rule R61): the byte at the lower address is bits 15-8 of the word, and up to 0xFFE
neither of the two reads is out of bounds. -/
def Obligations.FetchIsBigEndian : Prop :=
  ∀ (m : Memory) (a : Nat),
    (m.fetch16 a).toNat = (m.byte a).toNat * 256 + (m.byte (a + 1)).toNat ∧
    highByte (m.fetch16 a) = m.byte a ∧ lowByte (m.fetch16 a) = m.byte (a + 1) ∧
    (a ≤ 0xFFE → m.readChecked a = some (m.byte a) ∧ m.readChecked (a + 1) = some (m.byte (a + 1)))

/-! ### The step, the cycle and the host's events -/

/-- When the two bytes at `pc` decode to `i`, the step is the body of `i` on the state with `pc` advanced by 2, followed by
what the cycle adds: a fault leaves the cycle at once, with slots to come the count goes down, and after the last slot the
cycle ends, with a tick if the machine is still running. The slot count and the empty schedule are the model's own (log
entry 4). -/
def Obligations.StepRunsTheFetchedInstruction : Prop :=
  ∀ (s : State) (k : Nat) (i : Instr), SlotOpen k s → s.pc.toNat ≤ 0xFFE →
    decodeBytes [s.mem.byte s.pc.toNat, s.mem.byte (s.pc.toNat + 1)] = .ok (i, []) → i.wf = true →
    ∃ t u, exec i (s.setPc (s.pc + 2#16)) = .next t ∧ step s = .next u ∧
      (t.fault ≠ none → u = t.setSlots none) ∧
      (t.fault = none → 0 < k → u = t.setSlots (some k)) ∧
      (t.fault = none → k = 0 → t.runState = .running → u = t.tick.setSlots none) ∧
      (t.fault = none → k = 0 → t.runState ≠ .running → u = t.setSlots none)

/-- A fetch with `pc` above 0xFFE raises `FetchOutOfBounds`, which records no word and `pc` itself, and changes nothing
else, `pc` included; the cycle is over (the spec's decision D8). -/
def Obligations.FetchOutsideMemoryFaults : Prop :=
  ∀ (s : State) (k : Nat), SlotOpen k s → 0xFFE < s.pc.toNat →
    ∃ t, step s = .next t ∧
      t.fault = some { cause := .fetchOutOfBounds, word := none, faultPc := s.pc, info := none } ∧
      t.slotsLeft = none ∧ t.inputs = s.inputs ∧ KeepsAllBut [.fault, .schedule] s t

/-- A fetched word of no row raises `UnknownInstruction`, which records the word and the address it was fetched from; only
`pc` has advanced, and the cycle is over without a tick (decision D10). -/
def Obligations.UnknownWordFaults : Prop :=
  ∀ (s : State) (k : Nat) (e : DecodeError), SlotOpen k s → s.pc.toNat ≤ 0xFFE →
    decode (s.mem.fetch16 s.pc.toNat) = .error e →
    ∃ t, step s = .next t ∧
      t.fault = some { cause := .unknownInstruction, word := some (s.mem.fetch16 s.pc.toNat),
                       faultPc := s.pc, info := none } ∧
      t.pc = s.pc + 2#16 ∧ t.slotsLeft = none ∧ t.inputs = s.inputs ∧
      KeepsAllBut [.fault, .pc, .schedule] s t

/-- A faulted machine changes nothing, timers and fault record included, in any step but one that delivers a reset: slots,
cycles, key events and snapshots have no effect, whatever is scheduled behind them (decision D10; the schedule is the
model's own, log entry 4). -/
def Obligations.FaultedMachineIsFrozen : Prop :=
  ∀ s : State, s.fault ≠ none → (∀ p rom, ¬Delivers s (.reset p rom)) →
    ∃ t, step s = .next t ∧ KeepsAllBut [.schedule] s t

/-- A machine that waits for a key stays so, with both timers and everything else frozen, in any step but one that delivers a
key press or a reset: idle slots, the end of a cycle, cycles and snapshots change nothing, and a key release changes the
keypad alone (decision D17; the schedule is the model's own, log entry 4). -/
def Obligations.WaitingMachineIsFrozen : Prop :=
  ∀ (s : State) (r : Nibble), s.runState = .waitingForKey r →
    (∀ p rom, ¬Delivers s (.reset p rom)) → (∀ c, ¬Delivers s (.keyDown c)) →
    ∃ t, step s = .next t ∧ KeepsAllBut [.schedule, .keypad] s t ∧
      ((∀ c, ¬Delivers s (.keyUp c)) → KeepsAllBut [.schedule] s t)

/-- The tick (`40_step_and_cycle.md` rule R131): both timers go down by one and stop at 0, nothing else changes; it is the
last act of a cycle whose last slot leaves the machine running and unfaulted. No earlier slot ticks, nor a last slot that
faults or leaves the machine waiting (decisions D10, D17). A cycle of no slots ticks a running machine and does nothing to
one that waits (decision D4), both scheduled and, with nothing scheduled, by the model's cadence (log entry 4). -/
def Obligations.TickCountsBothTimersDown : Prop :=
  (∀ s : State, s.tick.dt.toNat = s.dt.toNat - 1 ∧ s.tick.st.toNat = s.st.toNat - 1 ∧
    (s.tick.soundActive = true ↔ 1 < s.st.toNat) ∧ KeepsAllBut [.delayTimer, .soundTimer] s s.tick) ∧
  (∀ s t : State, s.slotsLeft = some 1 → slot s = .next t → t.fault = none → t.runState = .running →
    step s = .next (t.tick.setSlots none)) ∧
  (∀ s t : State, s.slotsLeft = some 1 → slot s = .next t → t.fault ≠ none ∨ t.runState ≠ .running →
    step s = .next (t.setSlots none)) ∧
  (∀ (s t : State) (k : Nat), s.slotsLeft = some (k + 2) → slot s = .next t →
    ∃ u, step s = .next u ∧ u.dt = t.dt ∧ u.st = t.st) ∧
  (∀ s t : State, s.slotsLeft = none → s.params.ipt = 0 → s.fault = none →
    (s.inputs = [] ∧ t = s ∨ ∃ es, s.inputs = .cycle :: es ∧ t = s.setInputs es) →
    (s.runState = .running → step s = .next (t.tick.setSlots none)) ∧
    (s.runState ≠ .running → step s = .next t))

/-- Stepping slot by slot from between two events is the `Cycle` event of `40_step_and_cycle.md` rule R130 as a whole, for
every `IPT`, with faults, key waits and the tick, in at most `max 1 IPT` steps; with a `Cycle` scheduled the event is
taken off the schedule, and with nothing scheduled the cadence driver delivers one (log entry 4). -/
def Obligations.StepsOfACycleAreTheCycleEvent : Prop :=
  ∀ s : State, s.slotsLeft = none →
    (s.inputs = [] → ∃ n, 1 ≤ n ∧ n ≤ max 1 s.params.ipt ∧ runSteps n s = cycle s) ∧
    (∀ es, s.inputs = .cycle :: es →
      ∃ n, 1 ≤ n ∧ n ≤ max 1 s.params.ipt ∧ runSteps n s = cycle (s.setInputs es))

/-- A key press (`40_step_and_cycle.md` rule R133): a down-edge marks the key pressed and, while the machine waits, puts
the code in the target register and resumes; a key already pressed changes nothing and resolves no wait; neither does a
press in a faulted machine (decision D10). The scheduled event does exactly this between two cycles (the schedule is the
model's own, log entry 4). -/
def Obligations.KeyPressResolvesAWaitOnADownEdge : Prop :=
  ∀ (s : State) (code : Nibble),
    (s.fault = none → s.readKey code = false →
      (s.keyDown code).readKey code = true ∧ (∀ c, c ≠ code → (s.keyDown code).readKey c = s.readKey c) ∧
      (s.keyDown code).runState = .running ∧
      (s.runState = .running → KeepsAllBut [.keypad] s (s.keyDown code)) ∧
      (∀ r, s.runState = .waitingForKey r →
        ((s.keyDown code).readV r).toNat = code.toNat ∧ KeepsRegsBut [r] s (s.keyDown code) ∧
        KeepsAllBut [.keypad, .registers, .runState] s (s.keyDown code))) ∧
    (s.readKey code = true → s.keyDown code = s) ∧
    (s.fault ≠ none → s.keyDown code = s) ∧
    (∀ es, s.slotsLeft = none → s.inputs = .keyDown code :: es →
      step s = .next ((s.setInputs es).keyDown code))

/-- A key release (`40_step_and_cycle.md` rule R134) marks the key released and changes nothing else: it resolves no wait
and writes no register; in a faulted machine it changes nothing (decision D10). The scheduled event does exactly
this between two cycles (the schedule is the model's own, log entry 4). -/
def Obligations.KeyReleaseResolvesNoWait : Prop :=
  ∀ (s : State) (code : Nibble),
    (s.fault = none → (s.keyUp code).readKey code = false ∧
      (∀ c, c ≠ code → (s.keyUp code).readKey c = s.readKey c) ∧ KeepsAllBut [.keypad] s (s.keyUp code)) ∧
    (s.fault ≠ none → s.keyUp code = s) ∧
    (∀ es, s.slotsLeft = none → s.inputs = .keyUp code :: es → step s = .next ((s.setInputs es).keyUp code))

/-- A snapshot (`40_step_and_cycle.md` rule R136) shows the 2048 cells row by row, 64 to a row, in any run state and also in
a faulted machine, and changes nothing: the step that delivers it only takes it off the schedule (log entry 4). -/
def Obligations.SnapshotShowsTheDisplayRowByRow : Prop :=
  ∀ s : State, s.snapshot.length = 2048 ∧
    (∀ (row : Fin 32) (col : Fin 64), s.snapshot[row.val * 64 + col.val]? = some ((s.display[row]).getLsbD col.val)) ∧
    (∀ es, s.slotsLeft = none → s.inputs = .snapshot :: es →
      step s = .next (s.setInputs es) ∧ KeepsAllBut [.schedule] s (s.setInputs es))

/-- A reset with an image that fits builds, in any state, the state of `10_state.md` rule R38: the font at 0x000, the image
at 0x200, `pc` at 0x200, running. The zero of every other part is the spec's decision D2 (log entry 2), the empty fault
latch its decision D10; the schedule and the random source are the host's and stay (log entries 4, 5). A step that finds
such a reset at the head of the schedule, in any state, Faulted and waiting included, makes exactly this state. -/
def Obligations.ResetBuildsTheResetState : Prop :=
  ∀ (p : Params) (rom : List Byte) (s : State), rom.length ≤ 3584 →
    (∀ es, s.slotsLeft = none → s.inputs = .reset p rom :: es →
      ∃ u, resetCall p rom (s.setInputs es) = .next u ∧ step s = .next u) ∧
    ∃ t, resetCall p rom s = .next t ∧
      (∀ a : Fin 80, t.mem.byte a.val = p.font[a]) ∧
      (∀ k : Fin rom.length, t.mem.byte (0x200 + k.val) = rom[k]) ∧
      (∀ a, 0x50 ≤ a → a < 0x200 → t.mem.byte a = 0#8) ∧
      (∀ a, 0x200 + rom.length ≤ a → a ≤ 0xFFF → t.mem.byte a = 0#8) ∧
      t.pc = 0x0200#16 ∧ t.runState = .running ∧ (∀ r, t.readV r = 0#8) ∧ t.i = 0#16 ∧ t.sp.val = 0 ∧
      (∀ k : Fin 16, t.stack[k] = 0#16) ∧ (∀ idx, Display.cell t.display idx = false) ∧
      (∀ c, t.readKey c = false) ∧ t.dt = 0#8 ∧ t.st = 0#8 ∧ t.fault = none ∧ t.params = p ∧
      t.slotsLeft = none ∧ t.inputs = s.inputs ∧ t.randIn = s.randIn ∧ t.draws = s.draws

/-- The rejections at the boundary leave the state as it was and latch no fault: an image that is too long, a key code
above 15 at the wide wrapper, any event but a reset before the first reset (decisions D18, D21). A code of 0-15 goes
through the wrapper. That a scheduled reset which is rejected is only taken off the schedule is the model's choice (log
entry 21), on the schedule of the model's own (log entry 4). -/
def Obligations.RejectedEventsChangeNothing : Prop :=
  (∀ (p : Params) (rom : List Byte) (s : State), 3584 < rom.length →
    resetCall p rom s = .fault (.programTooLarge rom.length) ∧
    ∀ es, s.slotsLeft = none → s.inputs = .reset p rom :: es → step s = .next (s.setInputs es)) ∧
  (∀ (code : Nat) (s : State), 15 < code →
    keyDownCall code s = .fault (.invalidKeyCode code) ∧ keyUpCall code s = .fault (.invalidKeyCode code)) ∧
  (∀ (code : Nat) (s : State) (h : code ≤ 15),
    keyDownCall code s = .next (s.keyDown ⟨⟨code, by omega⟩⟩) ∧ keyUpCall code s = .next (s.keyUp ⟨⟨code, by omega⟩⟩)) ∧
  (∀ e : HostEvent, (∀ p rom, e ≠ .reset p rom) → hostCall e none = .refused .neverReset)

/-- The state right after reset satisfies the invariant. -/
def Obligations.ResetStateSatisfiesTheInvariant : Prop := State.reset.Inv

/-- Every step keeps the invariant: the memory's canonical form, cleared free slots and bounded return addresses, the
bound on `pc` (no wrap-around ever arises, `10_state.md` rule R25), the slots of the cycle, and that a latched fault record
names the word, the address and the extra value of the fault's rule. -/
def Obligations.EveryStepKeepsTheInvariant : Prop :=
  ∀ s t : State, s.Inv → step s = .next t → t.Inv

/-- Every instruction answers a next state in every state, and so does every step: a fault is a next state with a record
(`60_exceptions.md` rule R262), never a stop. -/
def Obligations.EveryInstructionAndStepAnswersNext : Prop :=
  (∀ (i : Instr) (s : State), ∃ t, exec i s = .next t) ∧ ∀ s : State, ∃ t, step s = .next t

/-- Placing a word for the host makes the very next step run it, and changes only what the fetch needs: the two bytes at the
fetch place, which is `pc`, or 0x200 where `pc` is above 0xFFE; `pc` itself, which becomes the fetch place; the fault latch
and the wait latch, which are cleared; and the slot count (the model's own, log entry 10). -/
def Obligations.PlacedWordIsRunByTheNextStep : Prop :=
  ∀ (s : State) (nbits w : Nat) (i : Instr), s.mem.wf → decodeTableWord nbits w = some i →
    (∃ k t, s.openSlots = k + 1 ∧ exec i (s.withFetchWord nbits w).advance = .next t ∧
      step (s.withFetchWord nbits w) = .next (t.afterSlot k)) ∧
    KeepsAllBut [.memory, .pc, .fault, .runState, .schedule] s (s.withFetchWord nbits w) ∧
    KeepsBytesBut s.fetchPlace.toNat 2 s (s.withFetchWord nbits w) ∧
    (s.withFetchWord nbits w).mem.fetch16 s.fetchPlace.toNat = tableWord nbits w ∧
    (s.withFetchWord nbits w).pc = s.fetchPlace ∧
    (s.pc.toNat ≤ 0xFFE → s.fetchPlace = s.pc) ∧ (0xFFE < s.pc.toNat → s.fetchPlace = 0x0200#16) ∧
    (s.withFetchWord nbits w).fault = none ∧ (s.withFetchWord nbits w).runState = .running ∧
    (s.withFetchWord nbits w).slotsLeft = some s.openSlots ∧ (s.withFetchWord nbits w).inputs = s.inputs

/-! ### Rules about all instructions -/

/-- The frame of every instruction (`40_step_and_cycle.md` rule R124, the spec's decision D6): it writes only the parts and
the registers its rule names, and everything else reads as before. In particular no instruction writes the keypad, the
parameters or the schedule, only the six instructions of `10_state.md` rule R22 write `VF` beside their destination, and
only `Fx33` and `Fx55` write memory. The parts of `Fx07`, `Fx15` and `Fx18` are the model's presumption (log entry 9:
PRESUMED, the spec's decision D16, general knowledge). -/
def Obligations.EveryInstructionWritesOnlyWhatItsRuleNames : Prop :=
  ∀ (i : Instr) (s t : State), exec i s = .next t →
    KeepsAllBut (partsWritten i) s t ∧ KeepsRegsBut (regsWritten i) s t

/-- An instruction that raises a fault has no other effect than latching the record (`60_exceptions.md` rule R262, decision
D10): every check comes before the first write. -/
def Obligations.FaultingInstructionHasNoOtherEffect : Prop :=
  ∀ (i : Instr) (s t : State), s.fault = none → exec i s = .next t → t.fault ≠ none →
    KeepsAllBut [.fault] s t ∧
    ∃ r, t.fault = some r ∧ r.word = some (encode i) ∧ r.faultPc = s.pc - 2#16

/-- One step that delivers no reset changes `sp` by at most one (`10_state.md` rules R27, R35 item 2): up only for a
`2nnn`, down only for a `00EE` at `pc`, whatever is scheduled behind (the schedule is the model's own, log entry 4). -/
def Obligations.StackPointerMovesByAtMostOne : Prop :=
  ∀ s t : State, (∀ p rom, ¬Delivers s (.reset p rom)) → step s = .next t →
    t.sp.val = s.sp.val ∨
    (t.sp.val = s.sp.val + 1 ∧ ∃ nnn, decode (s.mem.fetch16 s.pc.toNat) = .ok (.call nnn)) ∨
    (t.sp.val + 1 = s.sp.val ∧ decode (s.mem.fetch16 s.pc.toNat) = .ok .ret)

/-- No instruction reads the sound timer (`10_state.md` rules R30, R36): whatever it holds, an instruction does the same
and carries it along, except `Fx18`, which overwrites it. That `Fx07` reads the delay timer and not this one, and that only
`Fx18` writes it, is the model's presumption (log entry 9: PRESUMED, the spec's decision D16). The host does see the timer,
as `sound_active` (`45_keypad_timers.md` rule R249). -/
def Obligations.NoInstructionReadsTheSoundTimer : Prop :=
  ∀ (i : Instr) (s : State) (b : Byte),
    ∃ t, exec i s = .next t ∧
      exec i (s.setSt b) = .next (match i with | .ldStVx _ => t | _ => t.setSt b)

/-- Only `Ex9E` and `ExA1` read the keypad (`10_state.md` rule R29): with any other key states every other instruction does
the same and carries them along. -/
def Obligations.OnlyKeySkipsReadTheKeypad : Prop :=
  ∀ (i : Instr) (s : State) (keys : Vector Bool 16), (∀ x, i ≠ .skp x) → (∀ x, i ≠ .sknp x) →
    ∃ t, exec i s = .next t ∧ exec i { s with keypad := keys } = .next { t with keypad := keys }

/-! ### Control transfer -/

/-- `1nnn` and `Bnnn` (`41_flow.md` rules R152, R154): the target is `nnn`, for `Bnnn` plus `V[0]` and unmasked, at most
0x10FE, and nothing else changes (decision D6); a target above 0xFFE is accepted and the next fetch raises (decision D8). -/
def Obligations.JumpsSetThePc : Prop :=
  ∀ (nnn : Addr12) (s : State),
    (∃ t, exec (.jp nnn) s = .next t ∧ t.pc.toNat = nnn.toNat ∧ KeepsAllBut [.pc] s t ∧
      (nnn.toNat = 0xFFF → ∃ u, stepInstr t = .next u ∧
        u.fault = some { cause := .fetchOutOfBounds, word := none, faultPc := 0x0FFF#16, info := none })) ∧
    (∃ t, exec (.jpV0 nnn) s = .next t ∧ t.pc.toNat = nnn.toNat + (s.readV 0).toNat ∧ KeepsAllBut [.pc] s t ∧
      (0xFFE < nnn.toNat + (s.readV 0).toNat → ∃ u, stepInstr t = .next u ∧
        u.fault = some { cause := .fetchOutOfBounds, word := none, faultPc := t.pc, info := none }))

/-- `3xkk` and `4xkk` (`41_flow.md` rules R155, R156): a second advance by 2 exactly when the condition holds, so that `pc`
ends at `fpc + 4` or `fpc + 2`. -/
def Obligations.SkipsOnImmediateComparison : Prop :=
  ∀ (x : Nibble) (kk : Byte) (s : State),
    (∃ t, exec (.seImm x kk) s = .next t ∧
      t.pc = (if (s.readV x).toNat = kk.toNat then s.pc + 2#16 else s.pc) ∧ KeepsAllBut [.pc] s t) ∧
    (∃ t, exec (.sneImm x kk) s = .next t ∧
      t.pc = (if (s.readV x).toNat = kk.toNat then s.pc else s.pc + 2#16) ∧ KeepsAllBut [.pc] s t)

/-- `5xy0` and `9xy0` (`41_flow.md` rules R157, R158): the encoding with low nibble 0, another low nibble unknown, the
second advance exactly when the condition holds, no flag and no fault, and `x = y`. -/
def Obligations.SkipsOnRegisterComparison : Prop :=
  ∀ (x y : Nibble) (s : State),
    (decode (encXyn 0x5 x y 0) = .ok (.seReg x y) ∧ decode (encXyn 0x9 x y 0) = .ok (.sneReg x y)) ∧
    (∀ n : Nibble, n ≠ 0 → decode (encXyn 0x5 x y n) = .error (.unknownWord (encXyn 0x5 x y n)) ∧
      decode (encXyn 0x9 x y n) = .error (.unknownWord (encXyn 0x9 x y n))) ∧
    (∃ t, exec (.seReg x y) s = .next t ∧
      t.pc = (if (s.readV x).toNat = (s.readV y).toNat then s.pc + 2#16 else s.pc) ∧
      (x = y → t.pc = s.pc + 2#16) ∧ t.readV 15 = s.readV 15 ∧ t.fault = s.fault) ∧
    (∃ t, exec (.sneReg x y) s = .next t ∧
      t.pc = (if (s.readV x).toNat = (s.readV y).toNat then s.pc else s.pc + 2#16) ∧
      (x = y → t.pc = s.pc) ∧ t.readV 15 = s.readV 15 ∧ t.fault = s.fault)

/-- `2nnn` on a stack that is not full (`41_flow.md` rule R153): the advanced `pc` goes to slot `sp`, unmasked. -/
def Obligations.CallPushesTheReturnAddress : Prop :=
  ∀ (nnn : Addr12) (s : State), s.sp.val < 16 →
    ∃ t, exec (.call nnn) s = .next t ∧ t.sp.val = s.sp.val + 1 ∧ t.pc.toNat = nnn.toNat ∧
      (∀ k : Fin 16, t.stack[k] = if k.val = s.sp.val then s.pc else s.stack[k]) ∧
      KeepsAllBut [.pc, .stack] s t

/-- `2nnn` on a full stack raises `StackOverflow` and pushes nothing (`41_flow.md` rule R153; record: decision D10). -/
def Obligations.CallOnAFullStackFaults : Prop :=
  ∀ (nnn : Addr12) (s : State), s.sp.val = 16 →
    ∃ t, exec (.call nnn) s = .next t ∧
      t.fault = some { cause := .stackOverflow, word := some (encNnn 0x2 nnn), faultPc := s.pc - 2#16, info := none } ∧
      KeepsAllBut [.fault] s t

/-- `00EE` on a stack that is not empty (`41_flow.md` rule R151): the popped slot goes to `pc` and is cleared. -/
def Obligations.ReturnPopsAndClearsTheSlot : Prop :=
  ∀ s : State, 0 < s.sp.val →
    ∃ t, exec .ret s = .next t ∧ t.sp.val + 1 = s.sp.val ∧
      (∀ k : Fin 16, k.val + 1 = s.sp.val → t.pc = s.stack[k] ∧ t.stack[k] = 0#16) ∧
      (∀ k : Fin 16, k.val + 1 ≠ s.sp.val → t.stack[k] = s.stack[k]) ∧
      KeepsAllBut [.pc, .stack] s t

/-- `00EE` on an empty stack raises `StackUnderflow` (`41_flow.md` rule R151; record: decision D10). -/
def Obligations.ReturnOnAnEmptyStackFaults : Prop :=
  ∀ s : State, s.sp.val = 0 →
    ∃ t, exec .ret s = .next t ∧
      t.fault = some { cause := .stackUnderflow, word := some 0x00EE#16, faultPc := s.pc - 2#16, info := none } ∧
      KeepsAllBut [.fault] s t

/-- The two stack faults (`60_exceptions.md` rules R265, R266): `00EE` with an empty stack raises code 2, `2nnn` with a full
one code 3; sixteen calls in a row from the empty stack succeed, and the seventeenth raises. -/
def Obligations.StackFaultsAreRaisedAtTheBounds : Prop :=
  (∀ s : State, s.sp.val = 0 → ∃ t r, exec .ret s = .next t ∧ t.fault = some r ∧ r.cause = .stackUnderflow ∧
    r.cause.code = 2) ∧
  (∀ (nnn : Addr12) (s : State), s.sp.val = 16 → ∃ t r, exec (.call nnn) s = .next t ∧ t.fault = some r ∧
    r.cause = .stackOverflow ∧ r.cause.code = 3) ∧
  (∀ (targets : List Addr12) (nnn : Addr12) (s : State), s.sp.val = 0 → s.fault = none → targets.length = 16 →
    ∃ t u r, callAll targets s = .next t ∧ t.fault = none ∧ t.sp.val = 16 ∧
      exec (.call nnn) t = .next u ∧ u.fault = some r ∧ r.cause = .stackOverflow)

/-- A return undoes a call: `pc` is the instruction after the call, `sp` and every slot below it are as before, and the slot
used is clear. -/
def Obligations.ReturnUndoesACall : Prop :=
  ∀ (nnn : Addr12) (s : State), s.sp.val < 16 →
    ∃ t u, exec (.call nnn) s = .next t ∧ exec .ret t = .next u ∧ u.pc = s.pc ∧ u.sp = s.sp ∧
      (∀ k : Fin 16, u.stack[k] = if k.val = s.sp.val then 0#16 else s.stack[k]) ∧
      KeepsAllBut [.stack] s u

/-! ### Load, arithmetic, logic, shift, random -/

/-- `6xkk` and `8xy0` (`42_alu.md` rules R170, R174): encoding, the value loaded, no flag but as the destination, no
fault. -/
def Obligations.LoadsWriteTheDestination : Prop :=
  (∀ (x : Nibble) (kk : Byte) (s : State), decode (encXkk 0x6 x kk) = .ok (.ldImm x kk) ∧
    ∃ t, exec (.ldImm x kk) s = .next t ∧ t.readV x = kk ∧ (x ≠ 15 → t.readV 15 = s.readV 15) ∧
      t.fault = s.fault) ∧
  (∀ (x y : Nibble) (s : State), decode (encXyn 0x8 x y 0) = .ok (.ldReg x y) ∧
    ∃ t, exec (.ldReg x y) s = .next t ∧ t.readV x = s.readV y ∧ (x ≠ 15 → t.readV 15 = s.readV 15) ∧
      (x = y → t = s) ∧ t.fault = s.fault)

/-- `7xkk` (`42_alu.md` rule R171): encoding, the sum modulo 256, `VF` not written, no fault; adding zero leaves `V[x]`
and `VF` unchanged. -/
def Obligations.AddImmediateWrapsWithoutAFlag : Prop :=
  ∀ (x : Nibble) (kk : Byte) (s : State), decode (encXkk 0x7 x kk) = .ok (.addImm x kk) ∧
    ∃ t, exec (.addImm x kk) s = .next t ∧ (t.readV x).toNat = ((s.readV x).toNat + kk.toNat) % 256 ∧
      (x ≠ 15 → t.readV 15 = s.readV 15) ∧ (kk = 0#8 → t.readV x = s.readV x ∧ t.readV 15 = s.readV 15) ∧
      t.fault = s.fault

/-- `8xy1`, `8xy2` and `8xy3` (`42_alu.md` rules R175 to R177), bit by bit; no effect on `VF` but as the destination, and
nothing else changes (decision D6). -/
def Obligations.LogicWorksBitByBit : Prop :=
  ∀ (x y : Nibble) (s : State),
    (∃ t, exec (.orReg x y) s = .next t ∧ KeepsRegsBut [x] s t ∧ KeepsAllBut [.registers] s t ∧
      ∀ b, (t.readV x).getLsbD b = ((s.readV x).getLsbD b || (s.readV y).getLsbD b)) ∧
    (∃ t, exec (.andReg x y) s = .next t ∧ KeepsRegsBut [x] s t ∧ KeepsAllBut [.registers] s t ∧
      ∀ b, (t.readV x).getLsbD b = ((s.readV x).getLsbD b && (s.readV y).getLsbD b)) ∧
    (∃ t, exec (.xorReg x y) s = .next t ∧ KeepsRegsBut [x] s t ∧ KeepsAllBut [.registers] s t ∧
      ∀ b, (t.readV x).getLsbD b = ((s.readV x).getLsbD b != (s.readV y).getLsbD b))

/-- `8xy4` (`42_alu.md` rule R178): encoding, the exact sum of the old values, the carry in `VF`, and the cases with `VF`
as an operand: the result written last wins when `x = 15`. -/
def Obligations.AddSetsTheCarry : Prop :=
  ∀ (x y : Nibble) (s : State), decode (encXyn 0x8 x y 4) = .ok (.addReg x y) ∧
    ∃ t, exec (.addReg x y) s = .next t ∧
      (t.readV x).toNat = ((s.readV x).toNat + (s.readV y).toNat) % 256 ∧
      (x ≠ 15 → t.readV 15 = if (s.readV x).toNat + (s.readV y).toNat > 255 then 1#8 else 0#8) ∧
      t.fault = s.fault

/-- `8xy5` and `8xy7` with `VF` no operand (`42_alu.md` rules R179, R181): the difference modulo 256, and a flag that is 1
exactly for strictly greater. -/
def Obligations.SubtractionSetsTheStrictFlag : Prop :=
  ∀ (x y : Nibble) (s : State), x ≠ 15 → y ≠ 15 →
    (∃ t, exec (.sub x y) s = .next t ∧
      ((t.readV x).toNat : Int) = ((s.readV x).toNat - (s.readV y).toNat : Int) % 256 ∧
      t.readV 15 = (if (s.readV y).toNat < (s.readV x).toNat then 1#8 else 0#8) ∧
      KeepsRegsBut [x, 15] s t ∧ KeepsAllBut [.registers] s t) ∧
    (∃ t, exec (.subn x y) s = .next t ∧
      ((t.readV x).toNat : Int) = ((s.readV y).toNat - (s.readV x).toNat : Int) % 256 ∧
      t.readV 15 = (if (s.readV x).toNat < (s.readV y).toNat then 1#8 else 0#8) ∧
      KeepsRegsBut [x, 15] s t ∧ KeepsAllBut [.registers] s t)

/-- `8xy5` and `8xy7` with `VF` as an operand: the difference is computed from the registers as the flag write left them.
That order is the spec's decision D12 (log entry 7), not the document's words. -/
def Obligations.SubtractionWithTheFlagAsOperand : Prop :=
  (∀ (y : Nibble) (s : State), y ≠ 15 →
    (∃ t, exec (.sub 15 y) s = .next t ∧ KeepsRegsBut [15] s t ∧ KeepsAllBut [.registers] s t ∧
      ((t.readV 15).toNat : Int) =
        ((if (s.readV y).toNat < (s.readV 15).toNat then 1 else 0) - (s.readV y).toNat : Int) % 256) ∧
    (∃ t, exec (.subn 15 y) s = .next t ∧ KeepsRegsBut [15] s t ∧ KeepsAllBut [.registers] s t ∧
      ((t.readV 15).toNat : Int) =
        ((s.readV y).toNat - (if (s.readV 15).toNat < (s.readV y).toNat then 1 else 0) : Int) % 256)) ∧
  (∀ (x : Nibble) (s : State), x ≠ 15 →
    (∃ t, exec (.sub x 15) s = .next t ∧ KeepsRegsBut [x, 15] s t ∧ KeepsAllBut [.registers] s t ∧
      t.readV 15 = (if (s.readV 15).toNat < (s.readV x).toNat then 1#8 else 0#8) ∧
      ((t.readV x).toNat : Int) = ((s.readV x).toNat - (t.readV 15).toNat : Int) % 256) ∧
    (∃ t, exec (.subn x 15) s = .next t ∧ KeepsRegsBut [x, 15] s t ∧ KeepsAllBut [.registers] s t ∧
      t.readV 15 = (if (s.readV x).toNat < (s.readV 15).toNat then 1#8 else 0#8) ∧
      ((t.readV x).toNat : Int) = ((t.readV 15).toNat - (s.readV x).toNat : Int) % 256)) ∧
  (∀ s : State, (∃ t, exec (.sub 15 15) s = .next t ∧ t.readV 15 = 0#8 ∧ KeepsRegsBut [15] s t ∧
      KeepsAllBut [.registers] s t) ∧
    (∃ t, exec (.subn 15 15) s = .next t ∧ t.readV 15 = 0#8 ∧ KeepsRegsBut [15] s t ∧ KeepsAllBut [.registers] s t))

/-- `8xy6` and `8xyE` (`42_alu.md` rules R180, R182): the flag is the whole low nibble, or bit 7 in place, of the unshifted
`V[x]`; `y` plays no part. With `x = 15` the flag write comes first and is what is shifted, the spec's decision D12 (log
entry 7). -/
def Obligations.ShiftsSetTheUnnormalisedFlags : Prop :=
  ∀ (x y : Nibble) (s : State),
    (∃ t, exec (.shr x y) s = .next t ∧ KeepsRegsBut [x, 15] s t ∧ KeepsAllBut [.registers] s t ∧
      (x ≠ 15 → (t.readV x).toNat = (s.readV x).toNat / 2 ∧ (t.readV 15).toNat = (s.readV x).toNat % 16) ∧
      (x = 15 → (t.readV 15).toNat = (s.readV 15).toNat % 16 / 2)) ∧
    (∃ t, exec (.shl x y) s = .next t ∧ KeepsRegsBut [x, 15] s t ∧ KeepsAllBut [.registers] s t ∧
      (x ≠ 15 → (t.readV x).toNat = (s.readV x).toNat * 2 % 256 ∧
        (t.readV 15).toNat = if 128 ≤ (s.readV x).toNat then 128 else 0) ∧
      (x = 15 → t.readV 15 = 0#8))

/-- `Cxkk` (`42_alu.md` rule R184): the byte drawn, whatever it is, AND `kk`; exactly one byte is drawn, the oldest the
host has supplied or, when there is none, the next free value (decision D5, log entry 5: nothing is said of its value). -/
def Obligations.RandomIsOneDrawnByteUnderTheMask : Prop :=
  ∀ (x : Nibble) (kk : Byte) (s : State),
    ∃ t, exec (.rnd x kk) s = .next t ∧
      (∀ b, (t.readV x).getLsbD b = (s.nextRandom.getLsbD b && kk.getLsbD b)) ∧ (kk = 0#8 → t.readV x = 0#8) ∧
      (kk = 0xFF#8 → t.readV x = s.nextRandom) ∧
      (∀ b bs, s.randIn = b :: bs → s.nextRandom = b ∧ t.randIn = bs ∧ t.draws = s.draws) ∧
      (s.randIn = [] → s.nextRandom = Config.randomByte s.draws ∧ t.randIn = [] ∧ t.draws = s.draws + 1) ∧
      KeepsRegsBut [x] s t ∧ KeepsAllBut [.registers, .random] s t

/-! ### Address register and memory -/

/-- `Annn` and `Fx29` (`43_index_memory.md` rules R200, R202): encoding, the value in `I`, no flag and no fault; the whole
byte is multiplied, so the product is at most 1275. -/
def Obligations.IndexLoads : Prop :=
  (∀ (nnn : Addr12) (s : State), decode (encNnn 0xA nnn) = .ok (.ldI nnn) ∧
    ∃ t, exec (.ldI nnn) s = .next t ∧ t.i.toNat = nnn.toNat ∧ t.readV 15 = s.readV 15 ∧ t.fault = s.fault) ∧
  (∀ (x : Nibble) (s : State), decode (encXkk 0xF x 0x29) = .ok (.ldF x) ∧
    ∃ t, exec (.ldF x) s = .next t ∧ t.i.toNat = (s.readV x).toNat * 5 ∧ t.i.toNat ≤ 1275 ∧
      t.readV 15 = s.readV 15 ∧ t.fault = s.fault)

/-- `Fx1E` (`43_index_memory.md` rule R201): a 16-bit sum, not reduced to 12 bits, and no flag. -/
def Obligations.IndexAddIsSixteenBitsWide : Prop :=
  ∀ (x : Nibble) (s : State),
    ∃ t, exec (.addI x) s = .next t ∧ t.i.toNat = (s.i.toNat + (s.readV x).toNat) % 65536 ∧
      KeepsAllBut [.index] s t

/-- `Fx33` inside memory (`43_index_memory.md` rule R203): hundreds, tens and ones at `I`, `I + 1`, `I + 2`, one digit a
byte, and every other byte as before. -/
def Obligations.BcdStoresThreeDigits : Prop :=
  ∀ (x : Nibble) (s : State), s.mem.wf → s.i.toNat + 2 ≤ 0xFFF →
    ∃ t, exec (.ldB x) s = .next t ∧
      (t.mem.byte s.i.toNat).toNat = (s.readV x).toNat / 100 ∧
      (t.mem.byte (s.i.toNat + 1)).toNat = (s.readV x).toNat / 10 % 10 ∧
      (t.mem.byte (s.i.toNat + 2)).toNat = (s.readV x).toNat % 10 ∧
      KeepsBytesBut s.i.toNat 3 s t ∧ KeepsAllBut [.memory] s t

/-- `Fx55` inside memory (`43_index_memory.md` rule R204): `V[x] + 1` bytes from `I`, the registers in order and zero beyond
index 15; every other byte as before. The count is the value of `V[x]`, not `x`. -/
def Obligations.DumpStoresAsManyBytesAsTheValueSays : Prop :=
  ∀ (x : Nibble) (s : State), s.mem.wf → s.i.toNat + (s.readV x).toNat ≤ 0xFFF →
    ∃ t, exec (.ldMemVx x) s = .next t ∧
      (∀ r : Nibble, r.toNat ≤ (s.readV x).toNat → t.mem.byte (s.i.toNat + r.toNat) = s.readV r) ∧
      (∀ j, 16 ≤ j → j ≤ (s.readV x).toNat → t.mem.byte (s.i.toNat + j) = 0#8) ∧
      KeepsBytesBut s.i.toNat ((s.readV x).toNat + 1) s t ∧ KeepsAllBut [.memory] s t

/-- `Fx65` inside memory (`43_index_memory.md` rule R205): registers 0 to `min(V[x], 15)` are loaded from `I` on, the count
taken before any load; the other registers and everything else stay. -/
def Obligations.LoadFillsAsManyRegistersAsTheValueSays : Prop :=
  ∀ (x : Nibble) (s : State), s.i.toNat + min (s.readV x).toNat 15 ≤ 0xFFF →
    ∃ t, exec (.ldVxMem x) s = .next t ∧
      (∀ r : Nibble, r.toNat ≤ min (s.readV x).toNat 15 → t.readV r = s.mem.byte (s.i.toNat + r.toNat)) ∧
      (∀ r : Nibble, min (s.readV x).toNat 15 < r.toNat → t.readV r = s.readV r) ∧
      KeepsAllBut [.registers] s t

/-- `Fx65` after `Fx55` with the same `I` and the same count restores the registers dumped (`43_index_memory.md` rule
R205), whatever happened to the registers in between and whichever registers give the count. -/
def Obligations.LoadAfterDumpRestoresTheRegisters : Prop :=
  ∀ (x y : Nibble) (s : State), s.mem.wf → s.i.toNat + (s.readV x).toNat ≤ 0xFFF →
    ∃ t, exec (.ldMemVx x) s = .next t ∧
      ∀ u : State, u.mem = t.mem → u.i = s.i → u.readV y = s.readV x →
        ∃ w, exec (.ldVxMem y) u = .next w ∧
          ∀ r : Nibble, r.toNat ≤ min (s.readV x).toNat 15 → w.readV r = s.readV r

/-- A memory instruction that would touch an address above 0xFFF raises `MemoryOutOfBounds` with the lowest address out of
range, `max(I, 0x1000)`, and has no other effect (`43_index_memory.md` rule R199, decisions D7, D10). `Dxyn` with `n = 0`
and the skipped indices of `Fx65` touch nothing. -/
def Obligations.AccessOutsideMemoryFaults : Prop :=
  ∀ (i : Instr) (s : State),
    (match i with
      | .drw _ _ n => 0 < n.toNat ∧ 0xFFF < s.i.toNat + (n.toNat - 1)
      | .ldB _ => 0xFFF < s.i.toNat + 2
      | .ldMemVx x => 0xFFF < s.i.toNat + (s.readV x).toNat
      | .ldVxMem x => 0xFFF < s.i.toNat + min (s.readV x).toNat 15
      | _ => False) →
    ∃ t, exec i s = .next t ∧
      t.fault = some { cause := .memoryOutOfBounds, word := some (encode i), faultPc := s.pc - 2#16,
                       info := some (max s.i.toNat 0x1000) } ∧
      KeepsAllBut [.fault] s t

/-! ### Display -/

/-- `00E0` (`44_display.md` rule R220): the word 0x00E0 exactly, every cell 0, `VF` not written, no fault; clearing a display
already clear changes nothing at all. -/
def Obligations.ClearTurnsEveryCellOff : Prop :=
  (∀ w : Word, decode w = .ok .cls ↔ w = 0x00E0#16) ∧
  ∀ s : State, ∃ t, exec .cls s = .next t ∧ (∀ idx, Display.cell t.display idx = false) ∧
    ((∀ idx, Display.cell s.display idx = false) → t = s) ∧
    t.readV 15 = s.readV 15 ∧ t.fault = s.fault

/-- `Dxyn` inside memory (`44_display.md` rules R221, R222): exactly the cells under the set bits, wrapped in both
directions, are turned over; `VF` is 1 if one of them was 1 and else 0, also for `n = 0`; nothing else changes. The
coordinates are the old registers, `VF` included (decision D13, log entry 8). -/
def Obligations.DrawTurnsOverTheCellsUnderTheSprite : Prop :=
  ∀ (x y n : Nibble) (s : State), n.toNat = 0 ∨ s.i.toNat + (n.toNat - 1) ≤ 0xFFF →
    ∃ t, exec (.drw x y n) s = .next t ∧
      (∀ idx, Display.cell t.display idx ≠ Display.cell s.display idx ↔
        SpriteCovers s (s.readV x).toNat (s.readV y).toNat n.toNat idx) ∧
      ((∃ idx, SpriteCovers s (s.readV x).toNat (s.readV y).toNat n.toNat idx ∧
          Display.cell s.display idx = true) → t.readV 15 = 1#8) ∧
      ((∀ idx, SpriteCovers s (s.readV x).toNat (s.readV y).toNat n.toNat idx →
          Display.cell s.display idx = false) → t.readV 15 = 0#8) ∧
      KeepsRegsBut [15] s t ∧ KeepsAllBut [.registers, .display] s t

/-- Drawing the same sprite twice at the same coordinates restores every cell, and on cells that were all 0 under a sprite
with a set bit the first draw gives `VF = 0` and the second `VF = 1` (`44_display.md` rule R223 items 1, 2; the document's
§8 says otherwise of the second flag and loses, `90_conflicts.md` C7). The coordinates are the same whenever neither is
`VF`, and when the flag happens to equal the old coordinate. -/
def Obligations.DrawingTwiceRestoresTheDisplay : Prop :=
  ∀ (x y n : Nibble) (s : State), n.toNat = 0 ∨ s.i.toNat + (n.toNat - 1) ≤ 0xFFF →
    ∃ t u, exec (.drw x y n) s = .next t ∧ exec (.drw x y n) t = .next u ∧
      (x ≠ 15 → t.readV x = s.readV x) ∧ (y ≠ 15 → t.readV y = s.readV y) ∧
      (t.readV x = s.readV x → t.readV y = s.readV y →
        (∀ idx, Display.cell u.display idx = Display.cell s.display idx) ∧
        ((∀ idx, SpriteCovers s (s.readV x).toNat (s.readV y).toNat n.toNat idx →
            Display.cell s.display idx = false) →
          (∃ idx, SpriteCovers s (s.readV x).toNat (s.readV y).toNat n.toNat idx) →
          t.readV 15 = 0#8 ∧ u.readV 15 = 1#8))

/-! ### Keypad and timers -/

/-- `Ex9E` and `ExA1` with a key code of 0-15 (`45_keypad_timers.md` rules R240, R241): the skip is taken exactly when the
key is pressed, or not pressed, and nothing else changes. -/
def Obligations.KeySkipsTestTheKey : Prop :=
  ∀ (x c : Nibble) (s : State), (s.readV x).toNat = c.toNat →
    (∃ t, exec (.skp x) s = .next t ∧ t.pc = (if s.readKey c = true then s.pc + 2#16 else s.pc) ∧
      KeepsAllBut [.pc] s t) ∧
    (∃ t, exec (.sknp x) s = .next t ∧ t.pc = (if s.readKey c = true then s.pc else s.pc + 2#16) ∧
      KeepsAllBut [.pc] s t)

/-- A key code above 15 raises `KeyIndexOutOfRange` with the code, in both key skips (decisions D9, D10): it is not masked
and is not "not pressed". -/
def Obligations.KeyCodeOutOfRangeFaults : Prop :=
  ∀ (x : Nibble) (s : State), 15 < (s.readV x).toNat →
    (∃ t, exec (.skp x) s = .next t ∧
      t.fault = some { cause := .keyIndexOutOfRange, word := some (encXkk 0xE x 0x9E), faultPc := s.pc - 2#16,
                       info := some (s.readV x).toNat } ∧ KeepsAllBut [.fault] s t) ∧
    (∃ t, exec (.sknp x) s = .next t ∧
      t.fault = some { cause := .keyIndexOutOfRange, word := some (encXkk 0xE x 0xA1), faultPc := s.pc - 2#16,
                       info := some (s.readV x).toNat } ∧ KeepsAllBut [.fault] s t)

/-- `Fx0A` (`45_keypad_timers.md` rule R242): the machine waits with target `x` and nothing else changes, `V[x]` and `pc`
included; the slots that follow in the cycle are idle and the cycle ends without a tick (decision D17). -/
def Obligations.KeyWaitLatchesTheTarget : Prop :=
  ∀ (x : Nibble) (s : State),
    ∃ t, exec (.ldVxK x) s = .next t ∧ t.runState = .waitingForKey x ∧ KeepsAllBut [.runState] s t ∧
      ∀ k, ∃ u, step (t.setSlots (some k)) = .next u ∧ KeepsAllBut [.schedule] t u

/-- `Fx07`, `Fx15` and `Fx18` copy between `V[x]` and the timers (`45_keypad_timers.md` rules R243 to R245). Which pattern
copies in which direction is general knowledge the spec supplied (decision D16, log entry 9). -/
def Obligations.TimerCopies : Prop :=
  ∀ (x : Nibble) (s : State),
    (∃ t, exec (.ldVxDt x) s = .next t ∧ t.readV x = s.dt ∧ KeepsRegsBut [x] s t ∧ KeepsAllBut [.registers] s t) ∧
    (∃ t, exec (.ldDtVx x) s = .next t ∧ t.dt = s.readV x ∧ KeepsAllBut [.delayTimer] s t) ∧
    (∃ t, exec (.ldStVx x) s = .next t ∧ t.st = s.readV x ∧ KeepsAllBut [.soundTimer] s t ∧
      (t.soundActive = true ↔ (s.readV x).toNat ≠ 0))
end

