-- ==== Sys2Proof/Laws/Encoding.lean ====
section
/-! SUPPORT. The laws of fields and formats: a field read from an encoded format is the operand put there, and a word is
its fields put together again. -/

namespace Sys2Proof

/-- A field whose number is known is that number's bit vector: what a branch of the decoder knows of its key. -/
theorem eq_ofNat_of_toNat {k n : Nat} {b : BitVec k} (h : b.toNat = n) : b = BitVec.ofNat k n := by
  rw [← h, BitVec.ofNat_toNat, BitVec.setWidth_eq]

@[simp] theorem fieldOp_encNnn (op : Nibble) (nnn : Addr12) : fieldOp (encNnn op nnn) = op := by
  ext i hi
  interval_cases i <;> simp [fieldOp, encNnn, place]

@[simp] theorem fieldNnn_encNnn (op : Nibble) (nnn : Addr12) : fieldNnn (encNnn op nnn) = nnn := by
  ext i hi
  interval_cases i <;> simp [fieldNnn, encNnn, place]

@[simp] theorem fieldOp_encXkk (op x : Nibble) (kk : Byte) : fieldOp (encXkk op x kk) = op := by
  ext i hi
  interval_cases i <;> simp [fieldOp, encXkk, place]

@[simp] theorem fieldX_encXkk (op x : Nibble) (kk : Byte) : fieldX (encXkk op x kk) = x := by
  ext i hi
  interval_cases i <;> simp [fieldX, encXkk, place]

@[simp] theorem fieldKk_encXkk (op x : Nibble) (kk : Byte) : fieldKk (encXkk op x kk) = kk := by
  ext i hi
  interval_cases i <;> simp [fieldKk, encXkk, place]

@[simp] theorem fieldOp_encXyn (op x y n : Nibble) : fieldOp (encXyn op x y n) = op := by
  ext i hi
  interval_cases i <;> simp [fieldOp, encXyn, place]

@[simp] theorem fieldX_encXyn (op x y n : Nibble) : fieldX (encXyn op x y n) = x := by
  ext i hi
  interval_cases i <;> simp [fieldX, encXyn, place]

@[simp] theorem fieldY_encXyn (op x y n : Nibble) : fieldY (encXyn op x y n) = y := by
  ext i hi
  interval_cases i <;> simp [fieldY, encXyn, place]

@[simp] theorem fieldN_encXyn (op x y n : Nibble) : fieldN (encXyn op x y n) = n := by
  ext i hi
  interval_cases i <;> simp [fieldN, encXyn, place]

theorem encNnn_fields (w : Word) : encNnn (fieldOp w) (fieldNnn w) = w := by
  ext i hi
  interval_cases i <;> simp [fieldOp, fieldNnn, encNnn, place]

theorem encXkk_fields (w : Word) : encXkk (fieldOp w) (fieldX w) (fieldKk w) = w := by
  ext i hi
  interval_cases i <;> simp [fieldOp, fieldX, fieldKk, encXkk, place]

theorem encXyn_fields (w : Word) : encXyn (fieldOp w) (fieldX w) (fieldY w) (fieldN w) = w := by
  ext i hi
  interval_cases i <;> simp [fieldOp, fieldX, fieldY, fieldN, encXyn, place]

/-- A word's two bytes, high byte first, are the word again (rule R61). -/
@[simp] theorem wordOfBytes_bytes (w : Word) : wordOfBytes (highByte w) (lowByte w) = w := by
  ext i hi
  interval_cases i <;> simp [wordOfBytes, highByte, lowByte, place]

@[simp] theorem highByte_wordOfBytes (hi lo : Byte) : highByte (wordOfBytes hi lo) = hi := by
  ext i h
  interval_cases i <;> simp [wordOfBytes, highByte, place]

@[simp] theorem lowByte_wordOfBytes (hi lo : Byte) : lowByte (wordOfBytes hi lo) = lo := by
  ext i h
  interval_cases i <;> simp [wordOfBytes, lowByte, place]

/-- A table word of a row is the row's word where the row has all 16 bits (rule R90). -/
theorem tableWord_toNat (w : Word) : tableWord 16 w.toNat = w := by
  apply BitVec.eq_of_toNat_eq
  have := w.isLt
  simp only [tableWord, BitVec.toNat_ofNat]
  omega

/-- Masking an encoded format NNN leaves its opcode nibble. -/
theorem encNnn_mask (op : Nibble) (nnn : Addr12) : encNnn op nnn &&& 0xF000#16 = place 12 op := by
  ext i hi
  interval_cases i <;> simp [encNnn, place]

/-- Masking an encoded format XKK leaves its opcode nibble. -/
theorem encXkk_mask (op x : Nibble) (kk : Byte) : encXkk op x kk &&& 0xF000#16 = place 12 op := by
  ext i hi
  interval_cases i <;> simp [encXkk, place]

/-- Masking an encoded format X leaves its opcode nibble and low byte. -/
theorem encX_mask (op x : Nibble) (kk : Byte) : encXkk op x kk &&& 0xF0FF#16 = place 12 op ||| place 0 kk := by
  ext i hi
  interval_cases i <;> simp [encXkk, place]

/-- Masking an encoded format XY leaves its opcode nibble and low nibble. -/
theorem encXy_mask (op x y n : Nibble) : encXyn op x y n &&& 0xF00F#16 = place 12 op ||| place 0 n := by
  ext i hi
  interval_cases i <;> simp [encXyn, place]

/-- Masking an encoded format XYN leaves its opcode nibble. -/
theorem encXyn_mask (op x y n : Nibble) : encXyn op x y n &&& 0xF000#16 = place 12 op := by
  ext i hi
  interval_cases i <;> simp [encXyn, place]

end Sys2Proof
end

