-- ==== Sys2Proof/Laws/Memory.lean ====
section
/-! SUPPORT. The laws of memory: what a read gives after a write, and that every memory operation keeps the canonical
form. -/

namespace Sys2Proof.Machine

theorem Memory.lookup_put_other {a a' : Nat} (h : a' ≠ a) (b : Byte) (cs : List Host.Cell) :
    Memory.lookup (Memory.put cs a b) a' = Memory.lookup cs a' := by
  induction cs with
  | nil =>
    simp only [Memory.put]
    split <;> simp [Memory.lookup, h.symm]
  | cons c cs ih =>
    obtain ⟨k, c⟩ := c
    simp only [Memory.put]
    split
    · split <;> simp [Memory.lookup, h.symm]
    · split
      · subst_vars
        split <;> simp [Memory.lookup, h.symm]
      · simp [Memory.lookup, ih]

/-- No entry of a list whose addresses all lie above `a` is for `a`. -/
theorem Memory.lookup_eq_none_of_above {a : Nat} {cs : List Host.Cell} (h : ∀ p ∈ cs, a < p.1) :
    Memory.lookup cs a = none := by
  induction cs with
  | nil => rfl
  | cons c cs ih =>
    obtain ⟨k, c⟩ := c
    have hk : a < k := h (k, c) (by simp)
    simp only [Memory.lookup]
    rw [if_neg (by omega)]
    exact ih fun p hp => h p (by simp [hp])

theorem Memory.lookup_put_same {a : Nat} (b : Byte) {cs : List Host.Cell}
    (hs : cs.Pairwise fun p q => p.1 < q.1) :
    (Memory.lookup (Memory.put cs a b) a).getD (Memory.unlisted a) = b := by
  induction cs with
  | nil =>
    simp only [Memory.put]
    split <;> simp_all [Memory.lookup]
  | cons c cs ih =>
    obtain ⟨k, c⟩ := c
    rw [List.pairwise_cons] at hs
    simp only [Memory.put]
    split
    · rename_i hak
      split
      · rename_i hb
        rw [Memory.lookup_eq_none_of_above (a := a)]
        · simp [hb]
        · intro p hp
          rcases List.mem_cons.1 hp with rfl | hp
          · exact hak
          · exact lt_trans hak (hs.1 p hp)
      · simp [Memory.lookup]
    · split
      · rename_i hak
        subst hak
        split
        · rename_i hb
          rw [Memory.lookup_eq_none_of_above (fun p hp => hs.1 p hp)]
          simp [hb]
        · simp [Memory.lookup]
      · rename_i hne hne'
        simp only [Memory.lookup]
        rw [if_neg (fun h => hne' h.symm)]
        exact ih hs.2

/-- The entries of a list after a write are the written one and old ones. -/
theorem Memory.mem_put {a : Nat} {b : Byte} {cs : List Host.Cell} {p : Host.Cell} (h : p ∈ Memory.put cs a b) :
    (p = (a, b) ∧ b ≠ Memory.unlisted a) ∨ p ∈ cs := by
  induction cs with
  | nil =>
    simp only [Memory.put] at h
    split at h <;> simp_all
  | cons c cs ih =>
    obtain ⟨k, c⟩ := c
    simp only [Memory.put] at h
    split at h
    · split at h <;> simp_all
    · split at h
      · split at h
        · exact .inr (List.mem_cons_of_mem _ h)
        · rcases List.mem_cons.1 h with rfl | h
          · exact .inl ⟨rfl, by assumption⟩
          · exact .inr (List.mem_cons_of_mem _ h)
      · rcases List.mem_cons.1 h with rfl | h
        · exact .inr (by simp)
        · rcases ih h with h | h
          · exact .inl h
          · exact .inr (List.mem_cons_of_mem _ h)

theorem Memory.pairwise_put {a : Nat} {b : Byte} {cs : List Host.Cell}
    (hs : cs.Pairwise fun p q => p.1 < q.1) : (Memory.put cs a b).Pairwise fun p q => p.1 < q.1 := by
  induction cs with
  | nil => simp only [Memory.put]; split <;> simp
  | cons c cs ih =>
    obtain ⟨k, c⟩ := c
    have hcons := hs
    rw [List.pairwise_cons] at hs
    simp only [Memory.put]
    split
    · rename_i hak
      split
      · exact hcons
      · refine List.pairwise_cons.2 ⟨fun p hp => ?_, hcons⟩
        rcases List.mem_cons.1 hp with rfl | hp
        · exact hak
        · exact lt_trans hak (hs.1 p hp)
    · split
      · rename_i hak
        subst hak
        split
        · exact hs.2
        · exact List.pairwise_cons.2 ⟨fun p hp => hs.1 p hp, hs.2⟩
      · rename_i hlt hne
        refine List.pairwise_cons.2 ⟨fun p hp => ?_, ih hs.2⟩
        rcases Memory.mem_put hp with ⟨rfl, -⟩ | hp
        · show k < a
          omega
        · exact hs.1 p hp

theorem Memory.write_of_lt (m : Memory) {a : Nat} (ha : a < 4096) (b : Byte) :
    m.write a b = ⟨Memory.put m.cells a b⟩ := if_pos ha

theorem Memory.write_of_not_lt (m : Memory) {a : Nat} (ha : ¬a < 4096) (b : Byte) : m.write a b = m := if_neg ha

/-- A write keeps the canonical form. -/
theorem Memory.wf_write {m : Memory} (h : m.wf) (a : Nat) (b : Byte) : (m.write a b).wf := by
  by_cases ha : a < 4096
  · rw [Memory.write_of_lt m ha b]
    refine ⟨Memory.pairwise_put h.1, fun p hp => ?_⟩
    rcases Memory.mem_put hp with ⟨rfl, hb⟩ | hp
    · exact ⟨ha, hb⟩
    · exact h.2 p hp
  · rw [Memory.write_of_not_lt m ha b]
    exact h

theorem Memory.byte_write_same {m : Memory} (h : m.wf) {a : Nat} (ha : a < 4096) (b : Byte) :
    (m.write a b).byte a = b := by
  rw [Memory.write_of_lt m ha b]
  exact Memory.lookup_put_same b h.1

theorem Memory.byte_write_other (m : Memory) {a a' : Nat} (h : a' ≠ a) (b : Byte) :
    (m.write a b).byte a' = m.byte a' := by
  simp only [Memory.write]
  split
  · simp only [Memory.byte, Memory.lookup_put_other h]
  · rfl

@[simp] theorem Memory.writeBytes_nil (m : Memory) (a : Nat) : m.writeBytes a [] = m := rfl

@[simp] theorem Memory.writeBytes_cons (m : Memory) (a : Nat) (b : Byte) (bs : List Byte) :
    m.writeBytes a (b :: bs) = (m.write a b).writeBytes (a + 1) bs := rfl

/-- Storing bytes keeps the canonical form. -/
theorem Memory.wf_writeBytes {m : Memory} (h : m.wf) (a : Nat) (bs : List Byte) : (m.writeBytes a bs).wf := by
  induction bs generalizing m a with
  | nil => exact h
  | cons b bs ih => exact ih (Memory.wf_write h a b) (a + 1)

/-- Storing bytes leaves every address outside the stored ones alone. -/
theorem Memory.byte_writeBytes_outside (m : Memory) {a a' : Nat} {bs : List Byte}
    (h : a' < a ∨ a + bs.length ≤ a') : (m.writeBytes a bs).byte a' = m.byte a' := by
  induction bs generalizing m a with
  | nil => rfl
  | cons b bs ih =>
    simp only [List.length_cons] at h
    rw [Memory.writeBytes_cons, ih (m.write a b) (by omega), Memory.byte_write_other m (by omega)]

/-- Stored bytes read back, where they all lie inside memory. -/
theorem Memory.byte_writeBytes_inside {m : Memory} (hm : m.wf) {a k : Nat} {bs : List Byte}
    (hk : k < bs.length) (ha : a + bs.length ≤ 4096) : (m.writeBytes a bs).byte (a + k) = bs[k] := by
  induction bs generalizing m a k with
  | nil => simp at hk
  | cons b bs ih =>
    simp only [List.length_cons] at hk ha
    rw [Memory.writeBytes_cons]
    cases k with
    | zero =>
      rw [Memory.byte_writeBytes_outside _ (by omega)]
      exact Memory.byte_write_same hm (by omega) b
    | succ k =>
      have h := ih (Memory.wf_write hm a b) (a := a + 1) (k := k) (by omega) (by omega)
      rw [show a + (k + 1) = a + 1 + k by omega, h]
      rfl

theorem Memory.wf_empty : (Memory.mk []).wf := ⟨List.Pairwise.nil, fun _ h => absurd h List.not_mem_nil⟩

/-- Memory after a reset is in canonical form. -/
theorem Memory.wf_image (font : Vector Byte 80) (rom : List Byte) : (Memory.image font rom).wf :=
  Memory.wf_writeBytes (Memory.wf_writeBytes Memory.wf_empty _ _) _ _

/-- Inside memory the checked read of rule R63 is the raw one, and outside it there is none. -/
theorem Memory.readChecked_eq (m : Memory) (a : Nat) :
    m.readChecked a = if a ≤ 0xFFF then some (m.byte a) else none := rfl

/-- The checked write of rule R64 changes one byte and keeps the canonical form. -/
theorem Memory.writeChecked_spec {m n : Memory} (hm : m.wf) {a : Nat} {b : Byte}
    (h : m.writeChecked a b = some n) :
    n.wf ∧ n.byte a = b ∧ ∀ a', a' ≠ a → n.byte a' = m.byte a' := by
  simp only [Memory.writeChecked] at h
  split at h
  · obtain rfl := Option.some.inj h
    exact ⟨Memory.wf_write hm a b, Memory.byte_write_same hm (by omega) b, fun a' h' => Memory.byte_write_other m h' b⟩
  · simp at h

end Sys2Proof.Machine
end

