-- ==== Sys2Proof/Laws/State.lean ====
section
/-! SUPPORT. One lemma per field of the state per update: what the update writes and what it leaves alone. -/

namespace Sys2Proof.Machine

/-! ### `setV` -/

@[simp] theorem State.setV_v (s : State) (x : Nibble) (b : Byte) : (s.setV x b).v = s.v.set x.toNat b x.isLt := rfl
@[simp] theorem State.setV_i (s : State) (x : Nibble) (b : Byte) : (s.setV x b).i = s.i := rfl
@[simp] theorem State.setV_pc (s : State) (x : Nibble) (b : Byte) : (s.setV x b).pc = s.pc := rfl
@[simp] theorem State.setV_stack (s : State) (x : Nibble) (b : Byte) : (s.setV x b).stack = s.stack := rfl
@[simp] theorem State.setV_sp (s : State) (x : Nibble) (b : Byte) : (s.setV x b).sp = s.sp := rfl
@[simp] theorem State.setV_display (s : State) (x : Nibble) (b : Byte) : (s.setV x b).display = s.display := rfl
@[simp] theorem State.setV_keypad (s : State) (x : Nibble) (b : Byte) : (s.setV x b).keypad = s.keypad := rfl
@[simp] theorem State.setV_dt (s : State) (x : Nibble) (b : Byte) : (s.setV x b).dt = s.dt := rfl
@[simp] theorem State.setV_st (s : State) (x : Nibble) (b : Byte) : (s.setV x b).st = s.st := rfl
@[simp] theorem State.setV_runState (s : State) (x : Nibble) (b : Byte) : (s.setV x b).runState = s.runState := rfl
@[simp] theorem State.setV_fault (s : State) (x : Nibble) (b : Byte) : (s.setV x b).fault = s.fault := rfl
@[simp] theorem State.setV_mem (s : State) (x : Nibble) (b : Byte) : (s.setV x b).mem = s.mem := rfl
@[simp] theorem State.setV_params (s : State) (x : Nibble) (b : Byte) : (s.setV x b).params = s.params := rfl
@[simp] theorem State.setV_slotsLeft (s : State) (x : Nibble) (b : Byte) : (s.setV x b).slotsLeft = s.slotsLeft := rfl
@[simp] theorem State.setV_inputs (s : State) (x : Nibble) (b : Byte) : (s.setV x b).inputs = s.inputs := rfl
@[simp] theorem State.setV_randIn (s : State) (x : Nibble) (b : Byte) : (s.setV x b).randIn = s.randIn := rfl
@[simp] theorem State.setV_draws (s : State) (x : Nibble) (b : Byte) : (s.setV x b).draws = s.draws := rfl
@[simp] theorem State.setV_readKey (s : State) (x : Nibble) (b : Byte) (c' : Nibble) : (s.setV x b).readKey c' = s.readKey c' := rfl

/-! ### `setVF` -/

@[simp] theorem State.setVF_i (s : State) (b : Byte) : (s.setVF b).i = s.i := rfl
@[simp] theorem State.setVF_pc (s : State) (b : Byte) : (s.setVF b).pc = s.pc := rfl
@[simp] theorem State.setVF_stack (s : State) (b : Byte) : (s.setVF b).stack = s.stack := rfl
@[simp] theorem State.setVF_sp (s : State) (b : Byte) : (s.setVF b).sp = s.sp := rfl
@[simp] theorem State.setVF_display (s : State) (b : Byte) : (s.setVF b).display = s.display := rfl
@[simp] theorem State.setVF_keypad (s : State) (b : Byte) : (s.setVF b).keypad = s.keypad := rfl
@[simp] theorem State.setVF_dt (s : State) (b : Byte) : (s.setVF b).dt = s.dt := rfl
@[simp] theorem State.setVF_st (s : State) (b : Byte) : (s.setVF b).st = s.st := rfl
@[simp] theorem State.setVF_runState (s : State) (b : Byte) : (s.setVF b).runState = s.runState := rfl
@[simp] theorem State.setVF_fault (s : State) (b : Byte) : (s.setVF b).fault = s.fault := rfl
@[simp] theorem State.setVF_mem (s : State) (b : Byte) : (s.setVF b).mem = s.mem := rfl
@[simp] theorem State.setVF_params (s : State) (b : Byte) : (s.setVF b).params = s.params := rfl
@[simp] theorem State.setVF_slotsLeft (s : State) (b : Byte) : (s.setVF b).slotsLeft = s.slotsLeft := rfl
@[simp] theorem State.setVF_inputs (s : State) (b : Byte) : (s.setVF b).inputs = s.inputs := rfl
@[simp] theorem State.setVF_randIn (s : State) (b : Byte) : (s.setVF b).randIn = s.randIn := rfl
@[simp] theorem State.setVF_draws (s : State) (b : Byte) : (s.setVF b).draws = s.draws := rfl
@[simp] theorem State.setVF_readKey (s : State) (b : Byte) (c' : Nibble) : (s.setVF b).readKey c' = s.readKey c' := rfl

/-! ### `setI` -/

@[simp] theorem State.setI_v (s : State) (w : Word) : (s.setI w).v = s.v := rfl
@[simp] theorem State.setI_i (s : State) (w : Word) : (s.setI w).i = w := rfl
@[simp] theorem State.setI_pc (s : State) (w : Word) : (s.setI w).pc = s.pc := rfl
@[simp] theorem State.setI_stack (s : State) (w : Word) : (s.setI w).stack = s.stack := rfl
@[simp] theorem State.setI_sp (s : State) (w : Word) : (s.setI w).sp = s.sp := rfl
@[simp] theorem State.setI_display (s : State) (w : Word) : (s.setI w).display = s.display := rfl
@[simp] theorem State.setI_keypad (s : State) (w : Word) : (s.setI w).keypad = s.keypad := rfl
@[simp] theorem State.setI_dt (s : State) (w : Word) : (s.setI w).dt = s.dt := rfl
@[simp] theorem State.setI_st (s : State) (w : Word) : (s.setI w).st = s.st := rfl
@[simp] theorem State.setI_runState (s : State) (w : Word) : (s.setI w).runState = s.runState := rfl
@[simp] theorem State.setI_fault (s : State) (w : Word) : (s.setI w).fault = s.fault := rfl
@[simp] theorem State.setI_mem (s : State) (w : Word) : (s.setI w).mem = s.mem := rfl
@[simp] theorem State.setI_params (s : State) (w : Word) : (s.setI w).params = s.params := rfl
@[simp] theorem State.setI_slotsLeft (s : State) (w : Word) : (s.setI w).slotsLeft = s.slotsLeft := rfl
@[simp] theorem State.setI_inputs (s : State) (w : Word) : (s.setI w).inputs = s.inputs := rfl
@[simp] theorem State.setI_randIn (s : State) (w : Word) : (s.setI w).randIn = s.randIn := rfl
@[simp] theorem State.setI_draws (s : State) (w : Word) : (s.setI w).draws = s.draws := rfl
@[simp] theorem State.setI_readV (s : State) (w : Word) (r' : Nibble) : (s.setI w).readV r' = s.readV r' := rfl
@[simp] theorem State.setI_readKey (s : State) (w : Word) (c' : Nibble) : (s.setI w).readKey c' = s.readKey c' := rfl

/-! ### `setPc` -/

@[simp] theorem State.setPc_v (s : State) (w : Word) : (s.setPc w).v = s.v := rfl
@[simp] theorem State.setPc_i (s : State) (w : Word) : (s.setPc w).i = s.i := rfl
@[simp] theorem State.setPc_pc (s : State) (w : Word) : (s.setPc w).pc = w := rfl
@[simp] theorem State.setPc_stack (s : State) (w : Word) : (s.setPc w).stack = s.stack := rfl
@[simp] theorem State.setPc_sp (s : State) (w : Word) : (s.setPc w).sp = s.sp := rfl
@[simp] theorem State.setPc_display (s : State) (w : Word) : (s.setPc w).display = s.display := rfl
@[simp] theorem State.setPc_keypad (s : State) (w : Word) : (s.setPc w).keypad = s.keypad := rfl
@[simp] theorem State.setPc_dt (s : State) (w : Word) : (s.setPc w).dt = s.dt := rfl
@[simp] theorem State.setPc_st (s : State) (w : Word) : (s.setPc w).st = s.st := rfl
@[simp] theorem State.setPc_runState (s : State) (w : Word) : (s.setPc w).runState = s.runState := rfl
@[simp] theorem State.setPc_fault (s : State) (w : Word) : (s.setPc w).fault = s.fault := rfl
@[simp] theorem State.setPc_mem (s : State) (w : Word) : (s.setPc w).mem = s.mem := rfl
@[simp] theorem State.setPc_params (s : State) (w : Word) : (s.setPc w).params = s.params := rfl
@[simp] theorem State.setPc_slotsLeft (s : State) (w : Word) : (s.setPc w).slotsLeft = s.slotsLeft := rfl
@[simp] theorem State.setPc_inputs (s : State) (w : Word) : (s.setPc w).inputs = s.inputs := rfl
@[simp] theorem State.setPc_randIn (s : State) (w : Word) : (s.setPc w).randIn = s.randIn := rfl
@[simp] theorem State.setPc_draws (s : State) (w : Word) : (s.setPc w).draws = s.draws := rfl
@[simp] theorem State.setPc_readV (s : State) (w : Word) (r' : Nibble) : (s.setPc w).readV r' = s.readV r' := rfl
@[simp] theorem State.setPc_readKey (s : State) (w : Word) (c' : Nibble) : (s.setPc w).readKey c' = s.readKey c' := rfl

/-! ### `advance` -/

@[simp] theorem State.advance_v (s : State) : (s.advance).v = s.v := rfl
@[simp] theorem State.advance_i (s : State) : (s.advance).i = s.i := rfl
@[simp] theorem State.advance_pc (s : State) : (s.advance).pc = s.pc + 2#16 := rfl
@[simp] theorem State.advance_stack (s : State) : (s.advance).stack = s.stack := rfl
@[simp] theorem State.advance_sp (s : State) : (s.advance).sp = s.sp := rfl
@[simp] theorem State.advance_display (s : State) : (s.advance).display = s.display := rfl
@[simp] theorem State.advance_keypad (s : State) : (s.advance).keypad = s.keypad := rfl
@[simp] theorem State.advance_dt (s : State) : (s.advance).dt = s.dt := rfl
@[simp] theorem State.advance_st (s : State) : (s.advance).st = s.st := rfl
@[simp] theorem State.advance_runState (s : State) : (s.advance).runState = s.runState := rfl
@[simp] theorem State.advance_fault (s : State) : (s.advance).fault = s.fault := rfl
@[simp] theorem State.advance_mem (s : State) : (s.advance).mem = s.mem := rfl
@[simp] theorem State.advance_params (s : State) : (s.advance).params = s.params := rfl
@[simp] theorem State.advance_slotsLeft (s : State) : (s.advance).slotsLeft = s.slotsLeft := rfl
@[simp] theorem State.advance_inputs (s : State) : (s.advance).inputs = s.inputs := rfl
@[simp] theorem State.advance_randIn (s : State) : (s.advance).randIn = s.randIn := rfl
@[simp] theorem State.advance_draws (s : State) : (s.advance).draws = s.draws := rfl
@[simp] theorem State.advance_readV (s : State) (r' : Nibble) : (s.advance).readV r' = s.readV r' := rfl
@[simp] theorem State.advance_readKey (s : State) (c' : Nibble) : (s.advance).readKey c' = s.readKey c' := rfl

/-! ### `setMem` -/

@[simp] theorem State.setMem_v (s : State) (m : Memory) : (s.setMem m).v = s.v := rfl
@[simp] theorem State.setMem_i (s : State) (m : Memory) : (s.setMem m).i = s.i := rfl
@[simp] theorem State.setMem_pc (s : State) (m : Memory) : (s.setMem m).pc = s.pc := rfl
@[simp] theorem State.setMem_stack (s : State) (m : Memory) : (s.setMem m).stack = s.stack := rfl
@[simp] theorem State.setMem_sp (s : State) (m : Memory) : (s.setMem m).sp = s.sp := rfl
@[simp] theorem State.setMem_display (s : State) (m : Memory) : (s.setMem m).display = s.display := rfl
@[simp] theorem State.setMem_keypad (s : State) (m : Memory) : (s.setMem m).keypad = s.keypad := rfl
@[simp] theorem State.setMem_dt (s : State) (m : Memory) : (s.setMem m).dt = s.dt := rfl
@[simp] theorem State.setMem_st (s : State) (m : Memory) : (s.setMem m).st = s.st := rfl
@[simp] theorem State.setMem_runState (s : State) (m : Memory) : (s.setMem m).runState = s.runState := rfl
@[simp] theorem State.setMem_fault (s : State) (m : Memory) : (s.setMem m).fault = s.fault := rfl
@[simp] theorem State.setMem_mem (s : State) (m : Memory) : (s.setMem m).mem = m := rfl
@[simp] theorem State.setMem_params (s : State) (m : Memory) : (s.setMem m).params = s.params := rfl
@[simp] theorem State.setMem_slotsLeft (s : State) (m : Memory) : (s.setMem m).slotsLeft = s.slotsLeft := rfl
@[simp] theorem State.setMem_inputs (s : State) (m : Memory) : (s.setMem m).inputs = s.inputs := rfl
@[simp] theorem State.setMem_randIn (s : State) (m : Memory) : (s.setMem m).randIn = s.randIn := rfl
@[simp] theorem State.setMem_draws (s : State) (m : Memory) : (s.setMem m).draws = s.draws := rfl
@[simp] theorem State.setMem_readV (s : State) (m : Memory) (r' : Nibble) : (s.setMem m).readV r' = s.readV r' := rfl
@[simp] theorem State.setMem_readKey (s : State) (m : Memory) (c' : Nibble) : (s.setMem m).readKey c' = s.readKey c' := rfl

/-! ### `push` -/

@[simp] theorem State.push_v (s : State) (w : Word) (h : s.sp.val < 16) : (s.push w h).v = s.v := rfl
@[simp] theorem State.push_i (s : State) (w : Word) (h : s.sp.val < 16) : (s.push w h).i = s.i := rfl
@[simp] theorem State.push_pc (s : State) (w : Word) (h : s.sp.val < 16) : (s.push w h).pc = s.pc := rfl
@[simp] theorem State.push_stack (s : State) (w : Word) (h : s.sp.val < 16) : (s.push w h).stack = s.stack.set s.sp.val w h := rfl
@[simp] theorem State.push_display (s : State) (w : Word) (h : s.sp.val < 16) : (s.push w h).display = s.display := rfl
@[simp] theorem State.push_keypad (s : State) (w : Word) (h : s.sp.val < 16) : (s.push w h).keypad = s.keypad := rfl
@[simp] theorem State.push_dt (s : State) (w : Word) (h : s.sp.val < 16) : (s.push w h).dt = s.dt := rfl
@[simp] theorem State.push_st (s : State) (w : Word) (h : s.sp.val < 16) : (s.push w h).st = s.st := rfl
@[simp] theorem State.push_runState (s : State) (w : Word) (h : s.sp.val < 16) : (s.push w h).runState = s.runState := rfl
@[simp] theorem State.push_fault (s : State) (w : Word) (h : s.sp.val < 16) : (s.push w h).fault = s.fault := rfl
@[simp] theorem State.push_mem (s : State) (w : Word) (h : s.sp.val < 16) : (s.push w h).mem = s.mem := rfl
@[simp] theorem State.push_params (s : State) (w : Word) (h : s.sp.val < 16) : (s.push w h).params = s.params := rfl
@[simp] theorem State.push_slotsLeft (s : State) (w : Word) (h : s.sp.val < 16) : (s.push w h).slotsLeft = s.slotsLeft := rfl
@[simp] theorem State.push_inputs (s : State) (w : Word) (h : s.sp.val < 16) : (s.push w h).inputs = s.inputs := rfl
@[simp] theorem State.push_randIn (s : State) (w : Word) (h : s.sp.val < 16) : (s.push w h).randIn = s.randIn := rfl
@[simp] theorem State.push_draws (s : State) (w : Word) (h : s.sp.val < 16) : (s.push w h).draws = s.draws := rfl
@[simp] theorem State.push_readV (s : State) (w : Word) (h : s.sp.val < 16) (r' : Nibble) : (s.push w h).readV r' = s.readV r' := rfl
@[simp] theorem State.push_readKey (s : State) (w : Word) (h : s.sp.val < 16) (c' : Nibble) : (s.push w h).readKey c' = s.readKey c' := rfl

/-! ### `pop` -/

@[simp] theorem State.pop_v (s : State) (h : 0 < s.sp.val) : (s.pop h).v = s.v := rfl
@[simp] theorem State.pop_i (s : State) (h : 0 < s.sp.val) : (s.pop h).i = s.i := rfl
@[simp] theorem State.pop_pc (s : State) (h : 0 < s.sp.val) : (s.pop h).pc = s.pc := rfl
@[simp] theorem State.pop_stack (s : State) (h : 0 < s.sp.val) : (s.pop h).stack = s.stack.set (s.sp.val - 1) 0#16 (by omega) := rfl
@[simp] theorem State.pop_display (s : State) (h : 0 < s.sp.val) : (s.pop h).display = s.display := rfl
@[simp] theorem State.pop_keypad (s : State) (h : 0 < s.sp.val) : (s.pop h).keypad = s.keypad := rfl
@[simp] theorem State.pop_dt (s : State) (h : 0 < s.sp.val) : (s.pop h).dt = s.dt := rfl
@[simp] theorem State.pop_st (s : State) (h : 0 < s.sp.val) : (s.pop h).st = s.st := rfl
@[simp] theorem State.pop_runState (s : State) (h : 0 < s.sp.val) : (s.pop h).runState = s.runState := rfl
@[simp] theorem State.pop_fault (s : State) (h : 0 < s.sp.val) : (s.pop h).fault = s.fault := rfl
@[simp] theorem State.pop_mem (s : State) (h : 0 < s.sp.val) : (s.pop h).mem = s.mem := rfl
@[simp] theorem State.pop_params (s : State) (h : 0 < s.sp.val) : (s.pop h).params = s.params := rfl
@[simp] theorem State.pop_slotsLeft (s : State) (h : 0 < s.sp.val) : (s.pop h).slotsLeft = s.slotsLeft := rfl
@[simp] theorem State.pop_inputs (s : State) (h : 0 < s.sp.val) : (s.pop h).inputs = s.inputs := rfl
@[simp] theorem State.pop_randIn (s : State) (h : 0 < s.sp.val) : (s.pop h).randIn = s.randIn := rfl
@[simp] theorem State.pop_draws (s : State) (h : 0 < s.sp.val) : (s.pop h).draws = s.draws := rfl
@[simp] theorem State.pop_readV (s : State) (h : 0 < s.sp.val) (r' : Nibble) : (s.pop h).readV r' = s.readV r' := rfl
@[simp] theorem State.pop_readKey (s : State) (h : 0 < s.sp.val) (c' : Nibble) : (s.pop h).readKey c' = s.readKey c' := rfl

/-! ### `setDisplay` -/

@[simp] theorem State.setDisplay_v (s : State) (d : Display) : (s.setDisplay d).v = s.v := rfl
@[simp] theorem State.setDisplay_i (s : State) (d : Display) : (s.setDisplay d).i = s.i := rfl
@[simp] theorem State.setDisplay_pc (s : State) (d : Display) : (s.setDisplay d).pc = s.pc := rfl
@[simp] theorem State.setDisplay_stack (s : State) (d : Display) : (s.setDisplay d).stack = s.stack := rfl
@[simp] theorem State.setDisplay_sp (s : State) (d : Display) : (s.setDisplay d).sp = s.sp := rfl
@[simp] theorem State.setDisplay_display (s : State) (d : Display) : (s.setDisplay d).display = d := rfl
@[simp] theorem State.setDisplay_keypad (s : State) (d : Display) : (s.setDisplay d).keypad = s.keypad := rfl
@[simp] theorem State.setDisplay_dt (s : State) (d : Display) : (s.setDisplay d).dt = s.dt := rfl
@[simp] theorem State.setDisplay_st (s : State) (d : Display) : (s.setDisplay d).st = s.st := rfl
@[simp] theorem State.setDisplay_runState (s : State) (d : Display) : (s.setDisplay d).runState = s.runState := rfl
@[simp] theorem State.setDisplay_fault (s : State) (d : Display) : (s.setDisplay d).fault = s.fault := rfl
@[simp] theorem State.setDisplay_mem (s : State) (d : Display) : (s.setDisplay d).mem = s.mem := rfl
@[simp] theorem State.setDisplay_params (s : State) (d : Display) : (s.setDisplay d).params = s.params := rfl
@[simp] theorem State.setDisplay_slotsLeft (s : State) (d : Display) : (s.setDisplay d).slotsLeft = s.slotsLeft := rfl
@[simp] theorem State.setDisplay_inputs (s : State) (d : Display) : (s.setDisplay d).inputs = s.inputs := rfl
@[simp] theorem State.setDisplay_randIn (s : State) (d : Display) : (s.setDisplay d).randIn = s.randIn := rfl
@[simp] theorem State.setDisplay_draws (s : State) (d : Display) : (s.setDisplay d).draws = s.draws := rfl
@[simp] theorem State.setDisplay_readV (s : State) (d : Display) (r' : Nibble) : (s.setDisplay d).readV r' = s.readV r' := rfl
@[simp] theorem State.setDisplay_readKey (s : State) (d : Display) (c' : Nibble) : (s.setDisplay d).readKey c' = s.readKey c' := rfl

/-! ### `setKey` -/

@[simp] theorem State.setKey_v (s : State) (c : Nibble) (b : Bool) : (s.setKey c b).v = s.v := rfl
@[simp] theorem State.setKey_i (s : State) (c : Nibble) (b : Bool) : (s.setKey c b).i = s.i := rfl
@[simp] theorem State.setKey_pc (s : State) (c : Nibble) (b : Bool) : (s.setKey c b).pc = s.pc := rfl
@[simp] theorem State.setKey_stack (s : State) (c : Nibble) (b : Bool) : (s.setKey c b).stack = s.stack := rfl
@[simp] theorem State.setKey_sp (s : State) (c : Nibble) (b : Bool) : (s.setKey c b).sp = s.sp := rfl
@[simp] theorem State.setKey_display (s : State) (c : Nibble) (b : Bool) : (s.setKey c b).display = s.display := rfl
@[simp] theorem State.setKey_dt (s : State) (c : Nibble) (b : Bool) : (s.setKey c b).dt = s.dt := rfl
@[simp] theorem State.setKey_st (s : State) (c : Nibble) (b : Bool) : (s.setKey c b).st = s.st := rfl
@[simp] theorem State.setKey_runState (s : State) (c : Nibble) (b : Bool) : (s.setKey c b).runState = s.runState := rfl
@[simp] theorem State.setKey_fault (s : State) (c : Nibble) (b : Bool) : (s.setKey c b).fault = s.fault := rfl
@[simp] theorem State.setKey_mem (s : State) (c : Nibble) (b : Bool) : (s.setKey c b).mem = s.mem := rfl
@[simp] theorem State.setKey_params (s : State) (c : Nibble) (b : Bool) : (s.setKey c b).params = s.params := rfl
@[simp] theorem State.setKey_slotsLeft (s : State) (c : Nibble) (b : Bool) : (s.setKey c b).slotsLeft = s.slotsLeft := rfl
@[simp] theorem State.setKey_inputs (s : State) (c : Nibble) (b : Bool) : (s.setKey c b).inputs = s.inputs := rfl
@[simp] theorem State.setKey_randIn (s : State) (c : Nibble) (b : Bool) : (s.setKey c b).randIn = s.randIn := rfl
@[simp] theorem State.setKey_draws (s : State) (c : Nibble) (b : Bool) : (s.setKey c b).draws = s.draws := rfl
@[simp] theorem State.setKey_readV (s : State) (c : Nibble) (b : Bool) (r' : Nibble) : (s.setKey c b).readV r' = s.readV r' := rfl

/-! ### `setDt` -/

@[simp] theorem State.setDt_v (s : State) (b : Byte) : (s.setDt b).v = s.v := rfl
@[simp] theorem State.setDt_i (s : State) (b : Byte) : (s.setDt b).i = s.i := rfl
@[simp] theorem State.setDt_pc (s : State) (b : Byte) : (s.setDt b).pc = s.pc := rfl
@[simp] theorem State.setDt_stack (s : State) (b : Byte) : (s.setDt b).stack = s.stack := rfl
@[simp] theorem State.setDt_sp (s : State) (b : Byte) : (s.setDt b).sp = s.sp := rfl
@[simp] theorem State.setDt_display (s : State) (b : Byte) : (s.setDt b).display = s.display := rfl
@[simp] theorem State.setDt_keypad (s : State) (b : Byte) : (s.setDt b).keypad = s.keypad := rfl
@[simp] theorem State.setDt_dt (s : State) (b : Byte) : (s.setDt b).dt = b := rfl
@[simp] theorem State.setDt_st (s : State) (b : Byte) : (s.setDt b).st = s.st := rfl
@[simp] theorem State.setDt_runState (s : State) (b : Byte) : (s.setDt b).runState = s.runState := rfl
@[simp] theorem State.setDt_fault (s : State) (b : Byte) : (s.setDt b).fault = s.fault := rfl
@[simp] theorem State.setDt_mem (s : State) (b : Byte) : (s.setDt b).mem = s.mem := rfl
@[simp] theorem State.setDt_params (s : State) (b : Byte) : (s.setDt b).params = s.params := rfl
@[simp] theorem State.setDt_slotsLeft (s : State) (b : Byte) : (s.setDt b).slotsLeft = s.slotsLeft := rfl
@[simp] theorem State.setDt_inputs (s : State) (b : Byte) : (s.setDt b).inputs = s.inputs := rfl
@[simp] theorem State.setDt_randIn (s : State) (b : Byte) : (s.setDt b).randIn = s.randIn := rfl
@[simp] theorem State.setDt_draws (s : State) (b : Byte) : (s.setDt b).draws = s.draws := rfl
@[simp] theorem State.setDt_readV (s : State) (b : Byte) (r' : Nibble) : (s.setDt b).readV r' = s.readV r' := rfl
@[simp] theorem State.setDt_readKey (s : State) (b : Byte) (c' : Nibble) : (s.setDt b).readKey c' = s.readKey c' := rfl

/-! ### `setSt` -/

@[simp] theorem State.setSt_v (s : State) (b : Byte) : (s.setSt b).v = s.v := rfl
@[simp] theorem State.setSt_i (s : State) (b : Byte) : (s.setSt b).i = s.i := rfl
@[simp] theorem State.setSt_pc (s : State) (b : Byte) : (s.setSt b).pc = s.pc := rfl
@[simp] theorem State.setSt_stack (s : State) (b : Byte) : (s.setSt b).stack = s.stack := rfl
@[simp] theorem State.setSt_sp (s : State) (b : Byte) : (s.setSt b).sp = s.sp := rfl
@[simp] theorem State.setSt_display (s : State) (b : Byte) : (s.setSt b).display = s.display := rfl
@[simp] theorem State.setSt_keypad (s : State) (b : Byte) : (s.setSt b).keypad = s.keypad := rfl
@[simp] theorem State.setSt_dt (s : State) (b : Byte) : (s.setSt b).dt = s.dt := rfl
@[simp] theorem State.setSt_st (s : State) (b : Byte) : (s.setSt b).st = b := rfl
@[simp] theorem State.setSt_runState (s : State) (b : Byte) : (s.setSt b).runState = s.runState := rfl
@[simp] theorem State.setSt_fault (s : State) (b : Byte) : (s.setSt b).fault = s.fault := rfl
@[simp] theorem State.setSt_mem (s : State) (b : Byte) : (s.setSt b).mem = s.mem := rfl
@[simp] theorem State.setSt_params (s : State) (b : Byte) : (s.setSt b).params = s.params := rfl
@[simp] theorem State.setSt_slotsLeft (s : State) (b : Byte) : (s.setSt b).slotsLeft = s.slotsLeft := rfl
@[simp] theorem State.setSt_inputs (s : State) (b : Byte) : (s.setSt b).inputs = s.inputs := rfl
@[simp] theorem State.setSt_randIn (s : State) (b : Byte) : (s.setSt b).randIn = s.randIn := rfl
@[simp] theorem State.setSt_draws (s : State) (b : Byte) : (s.setSt b).draws = s.draws := rfl
@[simp] theorem State.setSt_readV (s : State) (b : Byte) (r' : Nibble) : (s.setSt b).readV r' = s.readV r' := rfl
@[simp] theorem State.setSt_readKey (s : State) (b : Byte) (c' : Nibble) : (s.setSt b).readKey c' = s.readKey c' := rfl

/-! ### `setRun` -/

@[simp] theorem State.setRun_v (s : State) (r : RunState) : (s.setRun r).v = s.v := rfl
@[simp] theorem State.setRun_i (s : State) (r : RunState) : (s.setRun r).i = s.i := rfl
@[simp] theorem State.setRun_pc (s : State) (r : RunState) : (s.setRun r).pc = s.pc := rfl
@[simp] theorem State.setRun_stack (s : State) (r : RunState) : (s.setRun r).stack = s.stack := rfl
@[simp] theorem State.setRun_sp (s : State) (r : RunState) : (s.setRun r).sp = s.sp := rfl
@[simp] theorem State.setRun_display (s : State) (r : RunState) : (s.setRun r).display = s.display := rfl
@[simp] theorem State.setRun_keypad (s : State) (r : RunState) : (s.setRun r).keypad = s.keypad := rfl
@[simp] theorem State.setRun_dt (s : State) (r : RunState) : (s.setRun r).dt = s.dt := rfl
@[simp] theorem State.setRun_st (s : State) (r : RunState) : (s.setRun r).st = s.st := rfl
@[simp] theorem State.setRun_runState (s : State) (r : RunState) : (s.setRun r).runState = r := rfl
@[simp] theorem State.setRun_fault (s : State) (r : RunState) : (s.setRun r).fault = s.fault := rfl
@[simp] theorem State.setRun_mem (s : State) (r : RunState) : (s.setRun r).mem = s.mem := rfl
@[simp] theorem State.setRun_params (s : State) (r : RunState) : (s.setRun r).params = s.params := rfl
@[simp] theorem State.setRun_slotsLeft (s : State) (r : RunState) : (s.setRun r).slotsLeft = s.slotsLeft := rfl
@[simp] theorem State.setRun_inputs (s : State) (r : RunState) : (s.setRun r).inputs = s.inputs := rfl
@[simp] theorem State.setRun_randIn (s : State) (r : RunState) : (s.setRun r).randIn = s.randIn := rfl
@[simp] theorem State.setRun_draws (s : State) (r : RunState) : (s.setRun r).draws = s.draws := rfl
@[simp] theorem State.setRun_readV (s : State) (r : RunState) (r' : Nibble) : (s.setRun r).readV r' = s.readV r' := rfl
@[simp] theorem State.setRun_readKey (s : State) (r : RunState) (c' : Nibble) : (s.setRun r).readKey c' = s.readKey c' := rfl

/-! ### `raise` -/

@[simp] theorem State.raise_v (s : State) (c : Cause) (w : Option Word) (p : Word) (n : Option Nat) : (s.raise c w p n).v = s.v := rfl
@[simp] theorem State.raise_i (s : State) (c : Cause) (w : Option Word) (p : Word) (n : Option Nat) : (s.raise c w p n).i = s.i := rfl
@[simp] theorem State.raise_pc (s : State) (c : Cause) (w : Option Word) (p : Word) (n : Option Nat) : (s.raise c w p n).pc = s.pc := rfl
@[simp] theorem State.raise_stack (s : State) (c : Cause) (w : Option Word) (p : Word) (n : Option Nat) : (s.raise c w p n).stack = s.stack := rfl
@[simp] theorem State.raise_sp (s : State) (c : Cause) (w : Option Word) (p : Word) (n : Option Nat) : (s.raise c w p n).sp = s.sp := rfl
@[simp] theorem State.raise_display (s : State) (c : Cause) (w : Option Word) (p : Word) (n : Option Nat) : (s.raise c w p n).display = s.display := rfl
@[simp] theorem State.raise_keypad (s : State) (c : Cause) (w : Option Word) (p : Word) (n : Option Nat) : (s.raise c w p n).keypad = s.keypad := rfl
@[simp] theorem State.raise_dt (s : State) (c : Cause) (w : Option Word) (p : Word) (n : Option Nat) : (s.raise c w p n).dt = s.dt := rfl
@[simp] theorem State.raise_st (s : State) (c : Cause) (w : Option Word) (p : Word) (n : Option Nat) : (s.raise c w p n).st = s.st := rfl
@[simp] theorem State.raise_runState (s : State) (c : Cause) (w : Option Word) (p : Word) (n : Option Nat) : (s.raise c w p n).runState = s.runState := rfl
@[simp] theorem State.raise_fault (s : State) (c : Cause) (w : Option Word) (p : Word) (n : Option Nat) : (s.raise c w p n).fault = some { cause := c, word := w, faultPc := p, info := n } := rfl
@[simp] theorem State.raise_mem (s : State) (c : Cause) (w : Option Word) (p : Word) (n : Option Nat) : (s.raise c w p n).mem = s.mem := rfl
@[simp] theorem State.raise_params (s : State) (c : Cause) (w : Option Word) (p : Word) (n : Option Nat) : (s.raise c w p n).params = s.params := rfl
@[simp] theorem State.raise_slotsLeft (s : State) (c : Cause) (w : Option Word) (p : Word) (n : Option Nat) : (s.raise c w p n).slotsLeft = s.slotsLeft := rfl
@[simp] theorem State.raise_inputs (s : State) (c : Cause) (w : Option Word) (p : Word) (n : Option Nat) : (s.raise c w p n).inputs = s.inputs := rfl
@[simp] theorem State.raise_randIn (s : State) (c : Cause) (w : Option Word) (p : Word) (n : Option Nat) : (s.raise c w p n).randIn = s.randIn := rfl
@[simp] theorem State.raise_draws (s : State) (c : Cause) (w : Option Word) (p : Word) (n : Option Nat) : (s.raise c w p n).draws = s.draws := rfl
@[simp] theorem State.raise_readV (s : State) (c : Cause) (w : Option Word) (p : Word) (n : Option Nat) (r' : Nibble) : (s.raise c w p n).readV r' = s.readV r' := rfl
@[simp] theorem State.raise_readKey (s : State) (c : Cause) (w : Option Word) (p : Word) (n : Option Nat) (c' : Nibble) : (s.raise c w p n).readKey c' = s.readKey c' := rfl

/-! ### `raiseIn` -/

@[simp] theorem State.raiseIn_v (s : State) (ins : Instr) (c : Cause) (n : Option Nat) : (s.raiseIn ins c n).v = s.v := rfl
@[simp] theorem State.raiseIn_i (s : State) (ins : Instr) (c : Cause) (n : Option Nat) : (s.raiseIn ins c n).i = s.i := rfl
@[simp] theorem State.raiseIn_pc (s : State) (ins : Instr) (c : Cause) (n : Option Nat) : (s.raiseIn ins c n).pc = s.pc := rfl
@[simp] theorem State.raiseIn_stack (s : State) (ins : Instr) (c : Cause) (n : Option Nat) : (s.raiseIn ins c n).stack = s.stack := rfl
@[simp] theorem State.raiseIn_sp (s : State) (ins : Instr) (c : Cause) (n : Option Nat) : (s.raiseIn ins c n).sp = s.sp := rfl
@[simp] theorem State.raiseIn_display (s : State) (ins : Instr) (c : Cause) (n : Option Nat) : (s.raiseIn ins c n).display = s.display := rfl
@[simp] theorem State.raiseIn_keypad (s : State) (ins : Instr) (c : Cause) (n : Option Nat) : (s.raiseIn ins c n).keypad = s.keypad := rfl
@[simp] theorem State.raiseIn_dt (s : State) (ins : Instr) (c : Cause) (n : Option Nat) : (s.raiseIn ins c n).dt = s.dt := rfl
@[simp] theorem State.raiseIn_st (s : State) (ins : Instr) (c : Cause) (n : Option Nat) : (s.raiseIn ins c n).st = s.st := rfl
@[simp] theorem State.raiseIn_runState (s : State) (ins : Instr) (c : Cause) (n : Option Nat) : (s.raiseIn ins c n).runState = s.runState := rfl
@[simp] theorem State.raiseIn_fault (s : State) (ins : Instr) (c : Cause) (n : Option Nat) : (s.raiseIn ins c n).fault = some { cause := c, word := some (encode ins), faultPc := s.pc - 2#16, info := n } := rfl
@[simp] theorem State.raiseIn_mem (s : State) (ins : Instr) (c : Cause) (n : Option Nat) : (s.raiseIn ins c n).mem = s.mem := rfl
@[simp] theorem State.raiseIn_params (s : State) (ins : Instr) (c : Cause) (n : Option Nat) : (s.raiseIn ins c n).params = s.params := rfl
@[simp] theorem State.raiseIn_slotsLeft (s : State) (ins : Instr) (c : Cause) (n : Option Nat) : (s.raiseIn ins c n).slotsLeft = s.slotsLeft := rfl
@[simp] theorem State.raiseIn_inputs (s : State) (ins : Instr) (c : Cause) (n : Option Nat) : (s.raiseIn ins c n).inputs = s.inputs := rfl
@[simp] theorem State.raiseIn_randIn (s : State) (ins : Instr) (c : Cause) (n : Option Nat) : (s.raiseIn ins c n).randIn = s.randIn := rfl
@[simp] theorem State.raiseIn_draws (s : State) (ins : Instr) (c : Cause) (n : Option Nat) : (s.raiseIn ins c n).draws = s.draws := rfl
@[simp] theorem State.raiseIn_readV (s : State) (ins : Instr) (c : Cause) (n : Option Nat) (r' : Nibble) : (s.raiseIn ins c n).readV r' = s.readV r' := rfl
@[simp] theorem State.raiseIn_readKey (s : State) (ins : Instr) (c : Cause) (n : Option Nat) (c' : Nibble) : (s.raiseIn ins c n).readKey c' = s.readKey c' := rfl

/-! ### `loadRegs` -/

@[simp] theorem State.loadRegs_i (s : State) (m : Nat) : (s.loadRegs m).i = s.i := rfl
@[simp] theorem State.loadRegs_pc (s : State) (m : Nat) : (s.loadRegs m).pc = s.pc := rfl
@[simp] theorem State.loadRegs_stack (s : State) (m : Nat) : (s.loadRegs m).stack = s.stack := rfl
@[simp] theorem State.loadRegs_sp (s : State) (m : Nat) : (s.loadRegs m).sp = s.sp := rfl
@[simp] theorem State.loadRegs_display (s : State) (m : Nat) : (s.loadRegs m).display = s.display := rfl
@[simp] theorem State.loadRegs_keypad (s : State) (m : Nat) : (s.loadRegs m).keypad = s.keypad := rfl
@[simp] theorem State.loadRegs_dt (s : State) (m : Nat) : (s.loadRegs m).dt = s.dt := rfl
@[simp] theorem State.loadRegs_st (s : State) (m : Nat) : (s.loadRegs m).st = s.st := rfl
@[simp] theorem State.loadRegs_runState (s : State) (m : Nat) : (s.loadRegs m).runState = s.runState := rfl
@[simp] theorem State.loadRegs_fault (s : State) (m : Nat) : (s.loadRegs m).fault = s.fault := rfl
@[simp] theorem State.loadRegs_mem (s : State) (m : Nat) : (s.loadRegs m).mem = s.mem := rfl
@[simp] theorem State.loadRegs_params (s : State) (m : Nat) : (s.loadRegs m).params = s.params := rfl
@[simp] theorem State.loadRegs_slotsLeft (s : State) (m : Nat) : (s.loadRegs m).slotsLeft = s.slotsLeft := rfl
@[simp] theorem State.loadRegs_inputs (s : State) (m : Nat) : (s.loadRegs m).inputs = s.inputs := rfl
@[simp] theorem State.loadRegs_randIn (s : State) (m : Nat) : (s.loadRegs m).randIn = s.randIn := rfl
@[simp] theorem State.loadRegs_draws (s : State) (m : Nat) : (s.loadRegs m).draws = s.draws := rfl
@[simp] theorem State.loadRegs_readKey (s : State) (m : Nat) (c' : Nibble) : (s.loadRegs m).readKey c' = s.readKey c' := rfl

/-! ### `tick` -/

@[simp] theorem State.tick_v (s : State) : (s.tick).v = s.v := rfl
@[simp] theorem State.tick_i (s : State) : (s.tick).i = s.i := rfl
@[simp] theorem State.tick_pc (s : State) : (s.tick).pc = s.pc := rfl
@[simp] theorem State.tick_stack (s : State) : (s.tick).stack = s.stack := rfl
@[simp] theorem State.tick_sp (s : State) : (s.tick).sp = s.sp := rfl
@[simp] theorem State.tick_display (s : State) : (s.tick).display = s.display := rfl
@[simp] theorem State.tick_keypad (s : State) : (s.tick).keypad = s.keypad := rfl
@[simp] theorem State.tick_dt (s : State) : (s.tick).dt = countDown s.dt := rfl
@[simp] theorem State.tick_st (s : State) : (s.tick).st = countDown s.st := rfl
@[simp] theorem State.tick_runState (s : State) : (s.tick).runState = s.runState := rfl
@[simp] theorem State.tick_fault (s : State) : (s.tick).fault = s.fault := rfl
@[simp] theorem State.tick_mem (s : State) : (s.tick).mem = s.mem := rfl
@[simp] theorem State.tick_params (s : State) : (s.tick).params = s.params := rfl
@[simp] theorem State.tick_slotsLeft (s : State) : (s.tick).slotsLeft = s.slotsLeft := rfl
@[simp] theorem State.tick_inputs (s : State) : (s.tick).inputs = s.inputs := rfl
@[simp] theorem State.tick_randIn (s : State) : (s.tick).randIn = s.randIn := rfl
@[simp] theorem State.tick_draws (s : State) : (s.tick).draws = s.draws := rfl
@[simp] theorem State.tick_readV (s : State) (r' : Nibble) : (s.tick).readV r' = s.readV r' := rfl
@[simp] theorem State.tick_readKey (s : State) (c' : Nibble) : (s.tick).readKey c' = s.readKey c' := rfl

/-! ### `setSlots` -/

@[simp] theorem State.setSlots_v (s : State) (k : Option Nat) : (s.setSlots k).v = s.v := rfl
@[simp] theorem State.setSlots_i (s : State) (k : Option Nat) : (s.setSlots k).i = s.i := rfl
@[simp] theorem State.setSlots_pc (s : State) (k : Option Nat) : (s.setSlots k).pc = s.pc := rfl
@[simp] theorem State.setSlots_stack (s : State) (k : Option Nat) : (s.setSlots k).stack = s.stack := rfl
@[simp] theorem State.setSlots_sp (s : State) (k : Option Nat) : (s.setSlots k).sp = s.sp := rfl
@[simp] theorem State.setSlots_display (s : State) (k : Option Nat) : (s.setSlots k).display = s.display := rfl
@[simp] theorem State.setSlots_keypad (s : State) (k : Option Nat) : (s.setSlots k).keypad = s.keypad := rfl
@[simp] theorem State.setSlots_dt (s : State) (k : Option Nat) : (s.setSlots k).dt = s.dt := rfl
@[simp] theorem State.setSlots_st (s : State) (k : Option Nat) : (s.setSlots k).st = s.st := rfl
@[simp] theorem State.setSlots_runState (s : State) (k : Option Nat) : (s.setSlots k).runState = s.runState := rfl
@[simp] theorem State.setSlots_fault (s : State) (k : Option Nat) : (s.setSlots k).fault = s.fault := rfl
@[simp] theorem State.setSlots_mem (s : State) (k : Option Nat) : (s.setSlots k).mem = s.mem := rfl
@[simp] theorem State.setSlots_params (s : State) (k : Option Nat) : (s.setSlots k).params = s.params := rfl
@[simp] theorem State.setSlots_slotsLeft (s : State) (k : Option Nat) : (s.setSlots k).slotsLeft = k := rfl
@[simp] theorem State.setSlots_inputs (s : State) (k : Option Nat) : (s.setSlots k).inputs = s.inputs := rfl
@[simp] theorem State.setSlots_randIn (s : State) (k : Option Nat) : (s.setSlots k).randIn = s.randIn := rfl
@[simp] theorem State.setSlots_draws (s : State) (k : Option Nat) : (s.setSlots k).draws = s.draws := rfl
@[simp] theorem State.setSlots_readV (s : State) (k : Option Nat) (r' : Nibble) : (s.setSlots k).readV r' = s.readV r' := rfl
@[simp] theorem State.setSlots_readKey (s : State) (k : Option Nat) (c' : Nibble) : (s.setSlots k).readKey c' = s.readKey c' := rfl

/-! ### `setInputs` -/

@[simp] theorem State.setInputs_v (s : State) (es : List HostEvent) : (s.setInputs es).v = s.v := rfl
@[simp] theorem State.setInputs_i (s : State) (es : List HostEvent) : (s.setInputs es).i = s.i := rfl
@[simp] theorem State.setInputs_pc (s : State) (es : List HostEvent) : (s.setInputs es).pc = s.pc := rfl
@[simp] theorem State.setInputs_stack (s : State) (es : List HostEvent) : (s.setInputs es).stack = s.stack := rfl
@[simp] theorem State.setInputs_sp (s : State) (es : List HostEvent) : (s.setInputs es).sp = s.sp := rfl
@[simp] theorem State.setInputs_display (s : State) (es : List HostEvent) : (s.setInputs es).display = s.display := rfl
@[simp] theorem State.setInputs_keypad (s : State) (es : List HostEvent) : (s.setInputs es).keypad = s.keypad := rfl
@[simp] theorem State.setInputs_dt (s : State) (es : List HostEvent) : (s.setInputs es).dt = s.dt := rfl
@[simp] theorem State.setInputs_st (s : State) (es : List HostEvent) : (s.setInputs es).st = s.st := rfl
@[simp] theorem State.setInputs_runState (s : State) (es : List HostEvent) : (s.setInputs es).runState = s.runState := rfl
@[simp] theorem State.setInputs_fault (s : State) (es : List HostEvent) : (s.setInputs es).fault = s.fault := rfl
@[simp] theorem State.setInputs_mem (s : State) (es : List HostEvent) : (s.setInputs es).mem = s.mem := rfl
@[simp] theorem State.setInputs_params (s : State) (es : List HostEvent) : (s.setInputs es).params = s.params := rfl
@[simp] theorem State.setInputs_slotsLeft (s : State) (es : List HostEvent) : (s.setInputs es).slotsLeft = s.slotsLeft := rfl
@[simp] theorem State.setInputs_inputs (s : State) (es : List HostEvent) : (s.setInputs es).inputs = es := rfl
@[simp] theorem State.setInputs_randIn (s : State) (es : List HostEvent) : (s.setInputs es).randIn = s.randIn := rfl
@[simp] theorem State.setInputs_draws (s : State) (es : List HostEvent) : (s.setInputs es).draws = s.draws := rfl
@[simp] theorem State.setInputs_readV (s : State) (es : List HostEvent) (r' : Nibble) : (s.setInputs es).readV r' = s.readV r' := rfl
@[simp] theorem State.setInputs_readKey (s : State) (es : List HostEvent) (c' : Nibble) : (s.setInputs es).readKey c' = s.readKey c' := rfl

@[simp] theorem State.push_sp (s : State) (w : Word) (h : s.sp.val < 16) : (s.push w h).sp.val = s.sp.val + 1 := rfl

@[simp] theorem State.pop_sp (s : State) (h : 0 < s.sp.val) : (s.pop h).sp.val = s.sp.val - 1 := rfl

/-! ### `afterDraw` -/

@[simp] theorem State.afterDraw_v (s : State) : s.afterDraw.v = s.v := by
  unfold State.afterDraw; split <;> rfl
@[simp] theorem State.afterDraw_i (s : State) : s.afterDraw.i = s.i := by
  unfold State.afterDraw; split <;> rfl
@[simp] theorem State.afterDraw_pc (s : State) : s.afterDraw.pc = s.pc := by
  unfold State.afterDraw; split <;> rfl
@[simp] theorem State.afterDraw_stack (s : State) : s.afterDraw.stack = s.stack := by
  unfold State.afterDraw; split <;> rfl
@[simp] theorem State.afterDraw_sp (s : State) : s.afterDraw.sp = s.sp := by
  unfold State.afterDraw; split <;> rfl
@[simp] theorem State.afterDraw_display (s : State) : s.afterDraw.display = s.display := by
  unfold State.afterDraw; split <;> rfl
@[simp] theorem State.afterDraw_keypad (s : State) : s.afterDraw.keypad = s.keypad := by
  unfold State.afterDraw; split <;> rfl
@[simp] theorem State.afterDraw_dt (s : State) : s.afterDraw.dt = s.dt := by
  unfold State.afterDraw; split <;> rfl
@[simp] theorem State.afterDraw_st (s : State) : s.afterDraw.st = s.st := by
  unfold State.afterDraw; split <;> rfl
@[simp] theorem State.afterDraw_runState (s : State) : s.afterDraw.runState = s.runState := by
  unfold State.afterDraw; split <;> rfl
@[simp] theorem State.afterDraw_fault (s : State) : s.afterDraw.fault = s.fault := by
  unfold State.afterDraw; split <;> rfl
@[simp] theorem State.afterDraw_mem (s : State) : s.afterDraw.mem = s.mem := by
  unfold State.afterDraw; split <;> rfl
@[simp] theorem State.afterDraw_params (s : State) : s.afterDraw.params = s.params := by
  unfold State.afterDraw; split <;> rfl
@[simp] theorem State.afterDraw_slotsLeft (s : State) : s.afterDraw.slotsLeft = s.slotsLeft := by
  unfold State.afterDraw; split <;> rfl
@[simp] theorem State.afterDraw_inputs (s : State) : s.afterDraw.inputs = s.inputs := by
  unfold State.afterDraw; split <;> rfl

@[simp] theorem State.afterDraw_readV (s : State) (r : Nibble) : s.afterDraw.readV r = s.readV r := by
  unfold State.afterDraw; split <;> rfl

/-! ### Reading a register or a key after writing one -/

theorem State.readV_setV (s : State) (x r : Nibble) (b : Byte) :
    (s.setV x b).readV r = if r = x then b else s.readV r := by
  simp only [State.readV, State.setV, Vector.getElem_set]
  by_cases h : r = x
  · simp [h]
  · rw [if_neg fun h' => h (BitVec.eq_of_toNat_eq h'.symm), if_neg h]

@[simp] theorem State.readV_setV_same (s : State) (x : Nibble) (b : Byte) : (s.setV x b).readV x = b := by
  rw [State.readV_setV, if_pos rfl]

theorem State.readV_setV_other (s : State) {x r : Nibble} (h : r ≠ x) (b : Byte) :
    (s.setV x b).readV r = s.readV r := by
  rw [State.readV_setV, if_neg h]

theorem State.readV_setVF (s : State) (r : Nibble) (b : Byte) :
    (s.setVF b).readV r = if r = 15#4 then b else s.readV r := State.readV_setV s 15#4 r b

theorem State.readV_loadRegs (s : State) (m : Nat) (r : Nibble) :
    (s.loadRegs m).readV r = if r.toNat ≤ m then s.mem.byte (s.i.toNat + r.toNat) else s.readV r := by
  simp [State.readV, State.loadRegs]

theorem State.readKey_setKey (s : State) (c k : Nibble) (b : Bool) :
    (s.setKey c b).readKey k = if k = c then b else s.readKey k := by
  simp only [State.readKey, State.setKey, Vector.getElem_set]
  by_cases h : k = c
  · simp [h]
  · rw [if_neg fun h' => h (BitVec.eq_of_toNat_eq h'.symm), if_neg h]

end Sys2Proof.Machine
end

