-- ==== Sys2Proof/Laws/Ops.lean ====
section
/-! SUPPORT. One lemma per shared operation: everything it can do, for later proofs to cite instead of unfolding it. -/

namespace Sys2Proof.Machine

/-! ### Raising a fault -/

/-- A body that raises on the advanced state records the fetch address (rule R262). -/
theorem State.raiseIn_advance_fault (s : State) (ins : Instr) (c : Cause) (n : Option Nat) :
    (s.advance.raiseIn ins c n).fault
      = some { cause := c, word := some (encode ins), faultPc := s.pc, info := n } := by
  simp

/-! ### Checks -/

theorem State.spanFits_iff (s : State) (last : Nat) : s.spanFits last = true ↔ s.i.toNat + last ≤ 0xFFF := by
  simp [State.spanFits]

theorem State.spriteFits_iff (s : State) (n : Nat) :
    s.spriteFits n = true ↔ n = 0 ∨ s.i.toNat + (n - 1) ≤ 0xFFF := by
  simp [State.spriteFits, State.spanFits]

/-! ### Operand forms -/

/-- A conditional skip changes `pc` and nothing else (rules R25, R150). -/
theorem State.skipIf_eq_setPc (s : State) (c : Bool) :
    s.skipIf c = s.setPc (if c then s.pc + 2#16 else s.pc) := by
  cases c <;> rfl

@[simp] theorem bcdDigits_length (b : Byte) : (bcdDigits b).length = 3 := rfl

@[simp] theorem State.dumpBytes_length (s : State) (k : Nat) : (s.dumpBytes k).length = k + 1 := by
  simp [State.dumpBytes]

theorem State.getElem_dumpBytes (s : State) {k j : Nat} (h : j < (s.dumpBytes k).length) :
    (s.dumpBytes k)[j] = s.dumpByte j := by
  simp [State.dumpBytes]

theorem State.dumpByte_reg (s : State) (r : Nibble) : s.dumpByte r.toNat = s.readV r := by
  have h : r.toNat < 16 := r.isLt
  simp [State.dumpByte, State.readV, h]

theorem State.dumpByte_beyond (s : State) {k : Nat} (h : 16 ≤ k) : s.dumpByte k = 0#8 := by
  simp [State.dumpByte, show ¬k < 16 by omega]

/-! ### Flags -/

theorem flagByte_decide (p : Prop) [Decidable p] : flagByte (decide p) = if p then 1#8 else 0#8 := by
  by_cases h : p <;> simp [flagByte, h]

/-- The carry is that of the exact sum (rule R178). -/
theorem carryFlag_eq (a b : Byte) : carryFlag a b = if a.toNat + b.toNat > 255 then 1#8 else 0#8 := by
  have ha := a.isLt
  have hb := b.isLt
  have h : (zextByte a + zextByte b).toNat = a.toNat + b.toNat := by
    simp only [zextByte, BitVec.toNat_add, BitVec.toNat_setWidth]
    omega
  rw [carryFlag, flagByte_decide, h]

theorem greaterFlag_eq (a b : Byte) : greaterFlag a b = if a.toNat > b.toNat then 1#8 else 0#8 :=
  flagByte_decide _

/-! ### Display -/

@[simp] theorem Display.cell_clear (idx : Nat) : Display.cell Display.clear idx = false := by
  simp [Display.cell, Display.clear]

theorem Display.cell_eq_false_of_le (d : Display) {idx : Nat} (h : 2048 ≤ idx) : Display.cell d idx = false := by
  simp [Display.cell, show ¬idx / 64 < 32 by omega]

/-- Displays with the same cells are the same display. -/
theorem Display.eq_of_cell_eq {d e : Display} (h : ∀ idx, Display.cell d idx = Display.cell e idx) : d = e := by
  refine Vector.ext fun r hr => BitVec.eq_of_getLsbD_eq fun c hc => ?_
  simpa [Display.cell, show (r * 64 + c) / 64 = r by omega, show (r * 64 + c) % 64 = c by omega, hr] using h (r * 64 + c)

/-- A toggle turns one cell over and leaves the others alone. -/
theorem Display.cell_toggle (d : Display) {i : Nat} (hi : i < 2048) (j : Nat) :
    Display.cell (Display.toggle d i) j = (Display.cell d j ^^ decide (i = j)) := by
  have hi' : i / 64 < 32 := by omega
  by_cases hj : j / 64 < 32
  · simp only [Display.cell, Display.toggle, dif_pos hi', dif_pos hj, Vector.getElem_set]
    by_cases hrow : i / 64 = j / 64
    · simp only [hrow, if_true, BitVec.getLsbD_xor, BitVec.getLsbD_twoPow]
      congr 1
      have hlt : i % 64 < 64 := Nat.mod_lt _ (by omega)
      have hiff : (i % 64 = j % 64) ↔ i = j := by omega
      simp [hlt, hiff]
    · have hne : i ≠ j := fun h => hrow (by rw [h])
      simp [hrow, hne]
  · have hne : i ≠ j := by omega
    simp [Display.cell, hj, hne]

/-- Drawing a list of distinct cells turns exactly those over, and the flag says whether any of them was 1
(`44_display.md` rule R222). -/
theorem Display.draw_spec {l : List Nat} (hl : l.Nodup) (hlt : ∀ i ∈ l, i < 2048) (d : Display) (hit : Bool) :
    (∀ j, Display.cell (Display.draw d hit l).1 j = (Display.cell d j ^^ decide (j ∈ l))) ∧
      (Display.draw d hit l).2 = (hit || l.any (Display.cell d)) := by
  induction l generalizing d hit with
  | nil => simp [Display.draw]
  | cons i rest ih =>
    rw [List.nodup_cons] at hl
    have hi : i < 2048 := hlt i (by simp)
    obtain ⟨hcell, hflag⟩ := ih hl.2 (fun k hk => hlt k (by simp [hk])) (Display.toggle d i) (hit || Display.cell d i)
    refine ⟨fun j => ?_, ?_⟩
    · rw [Display.draw, hcell, Display.cell_toggle d hi]
      by_cases hij : i = j
      · subst hij
        simp [hl.1]
      · have hji : j ≠ i := fun h => hij h.symm
        simp [hij, hji]
    · rw [Display.draw, hflag, List.any_cons, Bool.or_assoc]
      congr 2
      have : ∀ k ∈ rest, Display.cell (Display.toggle d i) k = Display.cell d k := fun k hk => by
        rw [Display.cell_toggle d hi]
        simp [show i ≠ k from fun h => hl.1 (h ▸ hk)]
      rw [Bool.eq_iff_iff, List.any_eq_true, List.any_eq_true]
      exact ⟨fun ⟨k, hk, h⟩ => ⟨k, hk, this k hk ▸ h⟩, fun ⟨k, hk, h⟩ => ⟨k, hk, (this k hk).symm ▸ h⟩⟩

theorem pixelIndex_lt (vx vy : Byte) (row col : Nat) : pixelIndex vx vy row col < 2048 := by
  unfold pixelIndex
  omega

theorem mem_rowPixels {vx vy b : Byte} {row idx : Nat} :
    idx ∈ rowPixels vx vy row b ↔ ∃ col, col < 8 ∧ b.getLsbD (7 - col) = true ∧ idx = pixelIndex vx vy row col := by
  simp only [rowPixels, List.mem_map, List.mem_filter, List.mem_range]
  exact ⟨fun ⟨c, ⟨h, hb⟩, he⟩ => ⟨c, h, hb, he.symm⟩, fun ⟨c, h, hb, he⟩ => ⟨c, ⟨h, hb⟩, he.symm⟩⟩

/-- The cells a sprite toggles: one for each set bit (`44_display.md` rule R221). -/
theorem State.mem_spritePixels {s : State} {vx vy : Byte} {n idx : Nat} :
    idx ∈ s.spritePixels vx vy n ↔
      ∃ row col, row < n ∧ col < 8 ∧ (s.mem.byte (s.i.toNat + row)).getLsbD (7 - col) = true ∧
        idx = pixelIndex vx vy row col := by
  simp only [State.spritePixels, List.mem_flatMap, List.mem_range, mem_rowPixels]
  exact ⟨fun ⟨r, hr, c, hc, hb, he⟩ => ⟨r, c, hr, hc, hb, he⟩, fun ⟨r, c, hr, hc, hb, he⟩ => ⟨r, hr, c, hc, hb, he⟩⟩

/-- Distinct sprite pixels land on distinct cells: a sprite is 8 wide and at most 15 tall (rule R222). -/
theorem pixelIndex_inj {vx vy : Byte} {row row' col col' : Nat} (hr : row < 32) (hr' : row' < 32) (hc : col < 8)
    (hc' : col' < 8) (h : pixelIndex vx vy row col = pixelIndex vx vy row' col') : row = row' ∧ col = col' := by
  unfold pixelIndex at h
  omega

theorem State.nodup_spritePixels (s : State) (vx vy : Byte) {n : Nat} (hn : n ≤ 32) :
    (s.spritePixels vx vy n).Nodup := by
  rw [State.spritePixels, List.nodup_flatMap]
  refine ⟨fun row hrow => ?_, List.Pairwise.imp_of_mem (fun {a b} ha hb hab => ?_) List.nodup_range⟩
  · have hrow := List.mem_range.1 hrow
    refine List.Nodup.map_on (fun c hc c' hc' h => ?_) (List.nodup_range.filter _)
    have hc := List.mem_range.1 (List.mem_filter.1 hc).1
    have hc' := List.mem_range.1 (List.mem_filter.1 hc').1
    exact (pixelIndex_inj (by omega) (by omega) hc hc' h).2
  · have ha := List.mem_range.1 ha
    have hb := List.mem_range.1 hb
    intro idx h h'
    obtain ⟨c, hc, -, rfl⟩ := mem_rowPixels.1 h
    obtain ⟨c', hc', -, he⟩ := mem_rowPixels.1 h'
    exact hab (pixelIndex_inj (by omega) (by omega) hc hc' he).1

/-! ### Outcomes, the instruction step -/

@[simp] theorem andThen_next (s : State) (f : State → Host.Outcome State Fault Refusal) :
    andThen (.next s) f = f s := rfl

/-- What the instruction step can do, fetch range and decoder in the order of rule R120. -/
theorem stepInstr_cases (s : State) :
    (0xFFE < s.pc.toNat ∧ stepInstr s = .next (s.raise .fetchOutOfBounds none s.pc none)) ∨
    (s.pc.toNat ≤ 0xFFE ∧ ∃ e, decode (s.mem.fetch16 s.pc.toNat) = .error e ∧
      stepInstr s =
        .next (s.advance.raise .unknownInstruction (some (s.mem.fetch16 s.pc.toNat)) s.pc none)) ∨
    (s.pc.toNat ≤ 0xFFE ∧ ∃ ins, decode (s.mem.fetch16 s.pc.toNat) = .ok ins ∧
      stepInstr s = exec ins s.advance) := by
  unfold stepInstr
  by_cases h : s.pc.toNat > 0xFFE
  · exact .inl ⟨h, by rw [if_pos h]⟩
  · rw [if_neg h]
    cases hd : decode (s.mem.fetch16 s.pc.toNat) with
    | error e => exact .inr (.inl ⟨by omega, e, rfl, rfl⟩)
    | ok ins => exact .inr (.inr ⟨by omega, ins, rfl, rfl⟩)

/-- The word fetched after two bytes are stored at its address is the word of those bytes (rules R61, R72). -/
theorem Memory.fetch16_writeBytes {m : Memory} (hm : m.wf) {a : Nat} (ha : a ≤ 0xFFE) (w : Word) :
    (m.writeBytes a [highByte w, lowByte w]).fetch16 a = w := by
  have h0 := Memory.byte_writeBytes_inside hm (a := a) (k := 0) (bs := [highByte w, lowByte w]) (by simp) (by simp; omega)
  have h1 := Memory.byte_writeBytes_inside hm (a := a) (k := 1) (bs := [highByte w, lowByte w]) (by simp) (by simp; omega)
  simp only [Nat.add_zero] at h0
  rw [Memory.fetch16, h0, h1]
  simp

end Sys2Proof.Machine
end

