-- ==== Sys2Proof/Laws/Exec.lean ====
section
/-! SUPPORT. One equation per instruction: the state `exec` answers, over the updates `Laws/State.lean` knows, with the
instruction's check where it has one. -/

namespace Sys2Proof.Machine

theorem exec_cls (s : State) : exec .cls s = .next (s.setDisplay Display.clear) := rfl

theorem exec_ret (s : State) :
    exec .ret s = if h : 0 < s.sp.val then .next ((s.pop h).setPc (s.top h))
      else .next (s.raiseIn .ret .stackUnderflow none) := rfl

theorem exec_jp (nnn : Addr12) (s : State) : exec (.jp nnn) s = .next (s.setPc (zextAddr nnn)) := rfl

theorem exec_call (nnn : Addr12) (s : State) :
    exec (.call nnn) s = if h : s.sp.val < 16 then .next ((s.push s.pc h).setPc (zextAddr nnn))
      else .next (s.raiseIn (.call nnn) .stackOverflow none) := rfl

theorem exec_seImm (x : Nibble) (kk : Byte) (s : State) :
    exec (.seImm x kk) s = .next (s.setPc (if s.readV x = kk then s.pc + 2#16 else s.pc)) := by
  simp [exec, execSeImm, State.skipIf_eq_setPc]

theorem exec_sneImm (x : Nibble) (kk : Byte) (s : State) :
    exec (.sneImm x kk) s = .next (s.setPc (if s.readV x = kk then s.pc else s.pc + 2#16)) := by
  simp [exec, execSneImm, State.skipIf_eq_setPc]

theorem exec_seReg (x y : Nibble) (s : State) :
    exec (.seReg x y) s = .next (s.setPc (if s.readV x = s.readV y then s.pc + 2#16 else s.pc)) := by
  simp [exec, execSeReg, State.skipIf_eq_setPc]

theorem exec_sneReg (x y : Nibble) (s : State) :
    exec (.sneReg x y) s = .next (s.setPc (if s.readV x = s.readV y then s.pc else s.pc + 2#16)) := by
  simp [exec, execSneReg, State.skipIf_eq_setPc]

theorem exec_jpV0 (nnn : Addr12) (s : State) :
    exec (.jpV0 nnn) s = .next (s.setPc (zextAddr nnn + zextByte (s.readV 0#4))) := rfl

theorem exec_ldImm (x : Nibble) (kk : Byte) (s : State) : exec (.ldImm x kk) s = .next (s.setV x kk) := rfl

theorem exec_addImm (x : Nibble) (kk : Byte) (s : State) :
    exec (.addImm x kk) s = .next (s.setV x (s.readV x + kk)) := rfl

theorem exec_ldReg (x y : Nibble) (s : State) : exec (.ldReg x y) s = .next (s.setV x (s.readV y)) := rfl

theorem exec_orReg (x y : Nibble) (s : State) :
    exec (.orReg x y) s = .next (s.setV x (s.readV x ||| s.readV y)) := rfl

theorem exec_andReg (x y : Nibble) (s : State) :
    exec (.andReg x y) s = .next (s.setV x (s.readV x &&& s.readV y)) := rfl

theorem exec_xorReg (x y : Nibble) (s : State) :
    exec (.xorReg x y) s = .next (s.setV x (s.readV x ^^^ s.readV y)) := rfl

theorem exec_addReg (x y : Nibble) (s : State) :
    exec (.addReg x y) s =
      .next ((s.setVF (carryFlag (s.readV x) (s.readV y))).setV x (s.readV x + s.readV y)) := rfl

theorem exec_sub (x y : Nibble) (s : State) :
    exec (.sub x y) s = .next ((s.setVF (greaterFlag (s.readV x) (s.readV y))).setV x
      ((s.setVF (greaterFlag (s.readV x) (s.readV y))).readV x -
        (s.setVF (greaterFlag (s.readV x) (s.readV y))).readV y)) := rfl

theorem exec_shr (x y : Nibble) (s : State) :
    exec (.shr x y) s = .next ((s.setVF (shrFlag (s.readV x))).setV x
      ((s.setVF (shrFlag (s.readV x))).readV x >>> 1)) := rfl

theorem exec_subn (x y : Nibble) (s : State) :
    exec (.subn x y) s = .next ((s.setVF (greaterFlag (s.readV y) (s.readV x))).setV x
      ((s.setVF (greaterFlag (s.readV y) (s.readV x))).readV y -
        (s.setVF (greaterFlag (s.readV y) (s.readV x))).readV x)) := rfl

theorem exec_shl (x y : Nibble) (s : State) :
    exec (.shl x y) s = .next ((s.setVF (shlFlag (s.readV x))).setV x
      ((s.setVF (shlFlag (s.readV x))).readV x <<< 1)) := rfl

theorem exec_ldI (nnn : Addr12) (s : State) : exec (.ldI nnn) s = .next (s.setI (zextAddr nnn)) := rfl

theorem exec_rnd (x : Nibble) (kk : Byte) (s : State) :
    exec (.rnd x kk) s = .next (s.afterDraw.setV x (s.nextRandom &&& kk)) := rfl

theorem exec_drw (x y n : Nibble) (s : State) :
    exec (.drw x y n) s = if s.spriteFits n.toNat then
      .next ((s.setDisplay (s.drawn (s.readV x) (s.readV y) n.toNat).1).setVF
        (collisionFlag (s.drawn (s.readV x) (s.readV y) n.toNat).2))
      else .next (s.raiseIn (.drw x y n) .memoryOutOfBounds (some s.lowestOutside)) := rfl

theorem exec_skp (x : Nibble) (s : State) :
    exec (.skp x) s = if (s.readV x).toNat > 15 then
      .next (s.raiseIn (.skp x) .keyIndexOutOfRange (some (s.readV x).toNat))
      else .next (s.setPc (if s.readKey ((s.readV x).setWidth 4) then s.pc + 2#16 else s.pc)) := by
  simp only [exec, execSkp, State.skipIf_eq_setPc]
  rfl

theorem exec_sknp (x : Nibble) (s : State) :
    exec (.sknp x) s = if (s.readV x).toNat > 15 then
      .next (s.raiseIn (.sknp x) .keyIndexOutOfRange (some (s.readV x).toNat))
      else .next (s.setPc (if s.readKey ((s.readV x).setWidth 4) then s.pc else s.pc + 2#16)) := by
  simp only [exec, execSknp, State.skipIf_eq_setPc]
  cases s.readKey ((s.readV x).setWidth 4) <;> rfl

theorem exec_ldVxDt (x : Nibble) (s : State) : exec (.ldVxDt x) s = .next (s.setV x s.dt) := rfl

theorem exec_ldVxK (x : Nibble) (s : State) : exec (.ldVxK x) s = .next (s.setRun (.waitingForKey x)) := rfl

theorem exec_ldDtVx (x : Nibble) (s : State) : exec (.ldDtVx x) s = .next (s.setDt (s.readV x)) := rfl

theorem exec_ldStVx (x : Nibble) (s : State) : exec (.ldStVx x) s = .next (s.setSt (s.readV x)) := rfl

theorem exec_addI (x : Nibble) (s : State) :
    exec (.addI x) s = .next (s.setI (s.i + zextByte (s.readV x))) := rfl

theorem exec_ldF (x : Nibble) (s : State) : exec (.ldF x) s = .next (s.setI (zextByte (s.readV x) * 5#16)) := rfl

theorem exec_ldB (x : Nibble) (s : State) :
    exec (.ldB x) s = if s.spanFits 2 then
      .next (s.setMem (s.mem.writeBytes s.i.toNat (bcdDigits (s.readV x))))
      else .next (s.raiseIn (.ldB x) .memoryOutOfBounds (some s.lowestOutside)) := rfl

theorem exec_ldMemVx (x : Nibble) (s : State) :
    exec (.ldMemVx x) s = if s.spanFits (s.readV x).toNat then
      .next (s.setMem (s.mem.writeBytes s.i.toNat (s.dumpBytes (s.readV x).toNat)))
      else .next (s.raiseIn (.ldMemVx x) .memoryOutOfBounds (some s.lowestOutside)) := rfl

theorem exec_ldVxMem (x : Nibble) (s : State) :
    exec (.ldVxMem x) s = if s.spanFits (loadLast (s.readV x)) then .next (s.loadRegs (loadLast (s.readV x)))
      else .next (s.raiseIn (.ldVxMem x) .memoryOutOfBounds (some s.lowestOutside)) := rfl

end Sys2Proof.Machine
end

