-- ==== Sys2Proof/Laws/Cycle.lean ====
section
/-! SUPPORT. The slot count of a cycle and the rest of the state: no instruction, step or slot reads or writes the count,
and the ways a slot and a cycle end. -/

namespace Sys2Proof.Machine

/-- An instruction carries the slot count along. -/
theorem exec_setSlots (i : Instr) (s : State) (k : Option Nat) :
    exec i (s.setSlots k) = andThen (exec i s) fun t => .next (t.setSlots k) := by
  cases i
  case ret => by_cases h : 0 < s.sp.val <;> simp [exec_ret, h] <;> rfl
  case call => by_cases h : s.sp.val < 16 <;> simp [exec_call, h] <;> rfl
  case rnd =>
    simp only [exec_rnd, andThen_next]
    rcases s with ⟨v,i,pc,stack,sp,display,keypad,dt,st,runState,fault,mem,params,slotsLeft,inputs,randIn,draws⟩
    cases randIn <;> rfl
  case drw x y n => simp only [exec_drw]; change (if s.spriteFits n.toNat = true then _ else _) = _; split <;> rfl
  case skp x => simp only [exec_skp]; change (if (s.readV x).toNat > 15 then _ else _) = _; split <;> rfl
  case sknp x => simp only [exec_sknp]; change (if (s.readV x).toNat > 15 then _ else _) = _; split <;> rfl
  case ldB x => simp only [exec_ldB]; change (if s.spanFits _ = true then _ else _) = _; split <;> rfl
  case ldMemVx x =>
    simp only [exec_ldMemVx]; change (if s.spanFits (s.readV x).toNat = true then _ else _) = _; split <;> rfl
  case ldVxMem x =>
    simp only [exec_ldVxMem]; change (if s.spanFits (loadLast (s.readV x)) = true then _ else _) = _; split <;> rfl
  case seImm x kk => simp [exec_seImm]; rfl
  case sneImm x kk => simp [exec_sneImm]; rfl
  case seReg x kk => simp [exec_seReg]; rfl
  case sneReg x kk => simp [exec_sneReg]; rfl
  all_goals rfl

theorem stepInstr_setSlots (s : State) (k : Option Nat) :
    stepInstr (s.setSlots k) = andThen (stepInstr s) fun t => .next (t.setSlots k) := by
  unfold stepInstr
  by_cases h : s.pc.toNat > 0xFFE
  · rw [if_pos h, if_pos (show (s.setSlots k).pc.toNat > 0xFFE from h)]; rfl
  · rw [if_neg h, if_neg (show ¬(s.setSlots k).pc.toNat > 0xFFE from h)]
    rw [State.setSlots_mem, State.setSlots_pc]
    cases decode (s.mem.fetch16 s.pc.toNat) with
    | error e => rfl
    | ok i => exact exec_setSlots i s.advance k

theorem slot_setSlots (s : State) (k : Option Nat) :
    slot (s.setSlots k) = andThen (slot s) fun t => .next (t.setSlots k) := by
  unfold slot
  by_cases h : s.fault.isSome = true
  · rw [if_pos h, if_pos (show (s.setSlots k).fault.isSome = true from h)]; rfl
  · rw [if_neg h, if_neg (show ¬(s.setSlots k).fault.isSome = true from h), State.setSlots_runState]
    cases s.runState with
    | running => exact stepInstr_setSlots s k
    | waitingForKey t => rfl

theorem slots_setSlots (n : Nat) (s : State) (k : Option Nat) :
    slots n (s.setSlots k) = andThen (slots n s) fun t => .next (t.setSlots k) := by
  induction n generalizing s with
  | zero => rfl
  | succ n ih =>
    unfold slots
    by_cases h : s.fault.isSome = true
    · rw [if_pos h, if_pos (show (s.setSlots k).fault.isSome = true from h)]; rfl
    · rw [if_neg h, if_neg (show ¬(s.setSlots k).fault.isSome = true from h)]
      rw [slot_setSlots]
      cases slot s with
      | next t => exact ih t
      | fault r => rfl
      | refused r => rfl

theorem endCycle_setSlots (s : State) (k : Option Nat) : (s.setSlots k).endCycle = s.endCycle := by
  unfold State.endCycle
  rw [State.setSlots_fault, State.setSlots_runState]
  split <;> rfl

/-- The slots after a fault do nothing. -/
theorem slots_faulted (n : Nat) {s : State} (h : s.fault.isSome = true) : slots n s = .next s := by
  cases n <;> simp [slots, h]

/-- A faulted cycle ends without a tick. -/
theorem endCycle_faulted {s : State} (h : s.fault.isSome = true) : s.endCycle = s.setSlots none := by
  rw [State.endCycle, if_neg (by cases hf : s.fault <;> simp_all)]

theorem afterSlot_faulted {t : State} (h : t.fault.isSome = true) (k : Nat) : t.afterSlot k = t.setSlots none := by
  cases k <;> simp [State.afterSlot, h]

theorem afterSlot_last {t : State} (h : ¬t.fault.isSome = true) : t.afterSlot 0 = t.endCycle := by
  simp [State.afterSlot, h]

theorem afterSlot_more {t : State} (h : ¬t.fault.isSome = true) (k : Nat) :
    t.afterSlot (k + 1) = t.setSlots (some (k + 1)) := by
  simp [State.afterSlot, h]

/-- A slot of a faulted machine is idle. -/
theorem slot_faulted {s : State} (h : s.fault.isSome = true) : slot s = .next s := by
  rw [slot, if_pos h]

/-- A slot of a waiting machine is idle. -/
theorem slot_waiting {s : State} {r : Nibble} (h : s.runState = .waitingForKey r) : slot s = .next s := by
  simp [slot, h]

/-- A cycle that leaves the machine waiting ends without a tick. -/
theorem endCycle_waiting {s : State} {r : Nibble} (h : s.runState = .waitingForKey r) :
    s.endCycle = s.setSlots none := by
  simp [State.endCycle, h]

/-- A cycle that leaves the machine running and unfaulted ends with a tick. -/
theorem endCycle_running {s : State} (hf : s.fault = none) (hr : s.runState = .running) :
    s.endCycle = s.tick.setSlots none := by
  simp [State.endCycle, hf, hr]

end Sys2Proof.Machine
end

