-- ==== Sys2Proof/Laws/PerInstr.lean ====
section
/-! SUPPORT. Statements about every instruction as syntax, one lemma per constructor: the family `RowMatch` says that the
word of an instruction matches the mask and match of its row in rule R97's table. -/

namespace Sys2Proof.Laws

/-- The word of `i` under its row's mask is its row's match (`30_encoding.md` rules R94, R97). -/
def RowMatch.Statement (i : Instr) : Prop := encode i &&& i.maskMatch.1 = i.maskMatch.2

theorem RowMatch.cls : RowMatch.Statement .cls :=
  by unfold RowMatch.Statement; decide

theorem RowMatch.ret : RowMatch.Statement .ret :=
  by unfold RowMatch.Statement; decide

theorem RowMatch.jp (nnn : Addr12) : RowMatch.Statement (.jp nnn) :=
  (encNnn_mask 0x1 nnn).trans rfl

theorem RowMatch.call (nnn : Addr12) : RowMatch.Statement (.call nnn) :=
  (encNnn_mask 0x2 nnn).trans rfl

theorem RowMatch.seImm (x : Nibble) (kk : Byte) : RowMatch.Statement (.seImm x kk) :=
  (encXkk_mask 0x3 x kk).trans rfl

theorem RowMatch.sneImm (x : Nibble) (kk : Byte) : RowMatch.Statement (.sneImm x kk) :=
  (encXkk_mask 0x4 x kk).trans rfl

theorem RowMatch.seReg (x y : Nibble) : RowMatch.Statement (.seReg x y) :=
  (encXy_mask 0x5 x y 0).trans rfl

theorem RowMatch.ldImm (x : Nibble) (kk : Byte) : RowMatch.Statement (.ldImm x kk) :=
  (encXkk_mask 0x6 x kk).trans rfl

theorem RowMatch.addImm (x : Nibble) (kk : Byte) : RowMatch.Statement (.addImm x kk) :=
  (encXkk_mask 0x7 x kk).trans rfl

theorem RowMatch.ldReg (x y : Nibble) : RowMatch.Statement (.ldReg x y) :=
  (encXy_mask 0x8 x y 0).trans rfl

theorem RowMatch.orReg (x y : Nibble) : RowMatch.Statement (.orReg x y) :=
  (encXy_mask 0x8 x y 1).trans rfl

theorem RowMatch.andReg (x y : Nibble) : RowMatch.Statement (.andReg x y) :=
  (encXy_mask 0x8 x y 2).trans rfl

theorem RowMatch.xorReg (x y : Nibble) : RowMatch.Statement (.xorReg x y) :=
  (encXy_mask 0x8 x y 3).trans rfl

theorem RowMatch.addReg (x y : Nibble) : RowMatch.Statement (.addReg x y) :=
  (encXy_mask 0x8 x y 4).trans rfl

theorem RowMatch.sub (x y : Nibble) : RowMatch.Statement (.sub x y) :=
  (encXy_mask 0x8 x y 5).trans rfl

theorem RowMatch.shr (x y : Nibble) : RowMatch.Statement (.shr x y) :=
  (encXy_mask 0x8 x y 6).trans rfl

theorem RowMatch.subn (x y : Nibble) : RowMatch.Statement (.subn x y) :=
  (encXy_mask 0x8 x y 7).trans rfl

theorem RowMatch.shl (x y : Nibble) : RowMatch.Statement (.shl x y) :=
  (encXy_mask 0x8 x y 0xE).trans rfl

theorem RowMatch.sneReg (x y : Nibble) : RowMatch.Statement (.sneReg x y) :=
  (encXy_mask 0x9 x y 0).trans rfl

theorem RowMatch.ldI (nnn : Addr12) : RowMatch.Statement (.ldI nnn) :=
  (encNnn_mask 0xA nnn).trans rfl

theorem RowMatch.jpV0 (nnn : Addr12) : RowMatch.Statement (.jpV0 nnn) :=
  (encNnn_mask 0xB nnn).trans rfl

theorem RowMatch.rnd (x : Nibble) (kk : Byte) : RowMatch.Statement (.rnd x kk) :=
  (encXkk_mask 0xC x kk).trans rfl

theorem RowMatch.drw (x y n : Nibble) : RowMatch.Statement (.drw x y n) :=
  (encXyn_mask 0xD x y n).trans rfl

theorem RowMatch.skp (x : Nibble) : RowMatch.Statement (.skp x) :=
  (encX_mask 0xE x 0x9E).trans rfl

theorem RowMatch.sknp (x : Nibble) : RowMatch.Statement (.sknp x) :=
  (encX_mask 0xE x 0xA1).trans rfl

theorem RowMatch.ldVxDt (x : Nibble) : RowMatch.Statement (.ldVxDt x) :=
  (encX_mask 0xF x 0x07).trans rfl

theorem RowMatch.ldVxK (x : Nibble) : RowMatch.Statement (.ldVxK x) :=
  (encX_mask 0xF x 0x0A).trans rfl

theorem RowMatch.ldDtVx (x : Nibble) : RowMatch.Statement (.ldDtVx x) :=
  (encX_mask 0xF x 0x15).trans rfl

theorem RowMatch.ldStVx (x : Nibble) : RowMatch.Statement (.ldStVx x) :=
  (encX_mask 0xF x 0x18).trans rfl

theorem RowMatch.addI (x : Nibble) : RowMatch.Statement (.addI x) :=
  (encX_mask 0xF x 0x1E).trans rfl

theorem RowMatch.ldF (x : Nibble) : RowMatch.Statement (.ldF x) :=
  (encX_mask 0xF x 0x29).trans rfl

theorem RowMatch.ldB (x : Nibble) : RowMatch.Statement (.ldB x) :=
  (encX_mask 0xF x 0x33).trans rfl

theorem RowMatch.ldMemVx (x : Nibble) : RowMatch.Statement (.ldMemVx x) :=
  (encX_mask 0xF x 0x55).trans rfl

theorem RowMatch.ldVxMem (x : Nibble) : RowMatch.Statement (.ldVxMem x) :=
  (encX_mask 0xF x 0x65).trans rfl

end Sys2Proof.Laws
end

