-- ==== Sys2Proof/Tests/Slice0.lean ====
section
/-! SUPPORT. Tests on fixed values: the checks that refuse, one decoded word per constructor, one step per vector of
`spec/95_test_vectors.md` (its number stands in the test's comment), and for every statement with hypotheses a witness
that meets them. -/

namespace Sys2Proof.Tests

open Sys2Proof Sys2Proof.Machine

/-! ### Well-formedness: what the checks refuse -/

theorem test_wf_nibble : operandFits 4 15 = true ∧ operandFits 4 16 = false := by decide

theorem test_wf_byte : operandFits 8 255 = true ∧ operandFits 8 256 = false := by decide

theorem test_wf_address : operandFits 12 0xFFF = true ∧ operandFits 12 0x1000 = false := by decide

theorem test_wf_rom (b : Byte) :
    romFits (List.replicate 3584 b) = true ∧ romFits (List.replicate 3585 b) = false := by
  unfold romFits
  rw [List.length_replicate, List.length_replicate]
  decide

theorem test_wf_keyCode : keyCodeFits 15 = true ∧ keyCodeFits 16 = false := by decide

/-- Not in rising order; listed although it reads the same unlisted (zero, and a font byte); outside memory. -/
theorem test_wf_memory :
    (Memory.mk [(0x300, 7), (0x301, 9)]).wf ∧ ¬ (Memory.mk [(0x301, 9), (0x300, 7)]).wf ∧
      ¬ (Memory.mk [(0x300, 0)]).wf ∧ ¬ (Memory.mk [(0x000, 0xF0)]).wf ∧ ¬ (Memory.mk [(0x1000, 7)]).wf := by decide

/-! ### Decoding: words written out from the patterns of `30_encoding.md` rule R97, fields at distinct values -/

theorem test_decode_cls : decode 0x00E0#16 = .ok .cls := by decide
theorem test_decode_ret : decode 0x00EE#16 = .ok .ret := by decide
theorem test_decode_jp : decode 0x1ABC#16 = .ok (.jp 0xABC) := by decide
theorem test_decode_call : decode 0x2FFF#16 = .ok (.call 0xFFF) := by decide
theorem test_decode_seImm : decode 0x3142#16 = .ok (.seImm 1 0x42) := by decide
theorem test_decode_sneImm : decode 0x4F80#16 = .ok (.sneImm 15 0x80) := by decide
theorem test_decode_seReg : decode 0x5120#16 = .ok (.seReg 1 2) := by decide
theorem test_decode_ldImm : decode 0x6A3C#16 = .ok (.ldImm 10 0x3C) := by decide
theorem test_decode_addImm : decode 0x71FF#16 = .ok (.addImm 1 0xFF) := by decide
theorem test_decode_ldReg : decode 0x8CF0#16 = .ok (.ldReg 12 15) := by decide
theorem test_decode_orReg : decode 0x8121#16 = .ok (.orReg 1 2) := by decide
theorem test_decode_andReg : decode 0x8212#16 = .ok (.andReg 2 1) := by decide
theorem test_decode_xorReg : decode 0x8BA3#16 = .ok (.xorReg 11 10) := by decide
theorem test_decode_addReg : decode 0x8F14#16 = .ok (.addReg 15 1) := by decide
theorem test_decode_sub : decode 0x81F5#16 = .ok (.sub 1 15) := by decide
theorem test_decode_shr : decode 0x8F06#16 = .ok (.shr 15 0) := by decide
theorem test_decode_subn : decode 0x8127#16 = .ok (.subn 1 2) := by decide
theorem test_decode_shl : decode 0x81FE#16 = .ok (.shl 1 15) := by decide
theorem test_decode_sneReg : decode 0x9120#16 = .ok (.sneReg 1 2) := by decide
theorem test_decode_ldI : decode 0xAFFE#16 = .ok (.ldI 0xFFE) := by decide
theorem test_decode_jpV0 : decode 0xB301#16 = .ok (.jpV0 0x301) := by decide
theorem test_decode_rnd : decode 0xC30F#16 = .ok (.rnd 3 0x0F) := by decide
theorem test_decode_drw : decode 0xDAB4#16 = .ok (.drw 10 11 4) := by decide
theorem test_decode_skp : decode 0xE19E#16 = .ok (.skp 1) := by decide
theorem test_decode_sknp : decode 0xEFA1#16 = .ok (.sknp 15) := by decide
theorem test_decode_ldVxDt : decode 0xF307#16 = .ok (.ldVxDt 3) := by decide
theorem test_decode_ldVxK : decode 0xF10A#16 = .ok (.ldVxK 1) := by decide
theorem test_decode_ldDtVx : decode 0xFE15#16 = .ok (.ldDtVx 14) := by decide
theorem test_decode_ldStVx : decode 0xF218#16 = .ok (.ldStVx 2) := by decide
theorem test_decode_addI : decode 0xF11E#16 = .ok (.addI 1) := by decide
theorem test_decode_ldF : decode 0xF029#16 = .ok (.ldF 0) := by decide
theorem test_decode_ldB : decode 0xF133#16 = .ok (.ldB 1) := by decide
theorem test_decode_ldMemVx : decode 0xF355#16 = .ok (.ldMemVx 3) := by decide
theorem test_decode_ldVxMem : decode 0xF265#16 = .ok (.ldVxMem 2) := by decide

/-- T30.3, T30.8, T30.13, T30.19, T30.23, T30.27, T30.32, T30.41: unknown words, rejected by their own name. -/
theorem test_decode_unknown :
    [0x00E1#16, 0x0123#16, 0x512F#16, 0x812F#16, 0x9121#16, 0xE1A0#16, 0xF008#16, 0xFFFF#16].all
      (fun w => decide (decode w = .error (.unknownWord w))) = true := by decide

theorem test_decode_truncated :
    decodeBytes [] = .error (.truncated 0) ∧ decodeBytes [0x12#8] = .error (.truncated 1) := by decide

/-! ### One step of small states -/

/-- One step with the word `w` placed at `pc`; nine slots of the cycle stay, so no tick follows. -/
def ran (w : Nat) (s : State) : Host.Outcome State Fault Refusal := step (s.withFetchWord 16 w)

/-- What `q` shows of the next state. -/
def seen {α : Type} (o : Host.Outcome State Fault Refusal) (q : State → α) : Option α :=
  match o with
  | .next t    => some (q t)
  | .fault _   => none
  | .refused _ => none

/-- The reset state with registers set. -/
def regs (vs : List (Nibble × Byte)) : State := vs.foldl (fun s p => s.setV p.1 p.2) State.reset

/-- A state with bytes stored from `a`. -/
def storing (a : Nat) (bs : List Byte) (s : State) : State := s.setMem (s.mem.writeBytes a bs)

/-- A display with these cells on. -/
def lit (cells : List Nat) : Display := cells.foldl Display.toggle Display.clear

/-- The stack pointer and one slot set. -/
def atDepth (sp : Fin 17) (slot : Fin 16) (w : Word) (s : State) : State :=
  { s with sp := sp, stack := s.stack.set slot.val w slot.isLt }

-- T44.1
theorem test_cls_keeps_flag :
    seen (ran 0x00E0 ((regs [(15, 1)]).setDisplay (lit [0, 63, 1024, 2047])))
      (fun t => (t.display, t.readV 15, t.pc)) = some (lit [], 1, 0x0202) := by decide

-- T41.9
theorem test_ret_pops_slot_15 :
    seen (ran 0x00EE (atDepth 16 15 0x0ABC State.reset))
      (fun t => (t.pc, t.sp, t.stack[15])) = some (0x0ABC, 15, 0) := by decide

-- T41.8
theorem test_ret_underflow :
    seen (ran 0x00EE State.reset) (fun t => (t.pc, t.fault)) =
      some (0x0202, some ⟨.stackUnderflow, some 0x00EE, 0x0200, none⟩) := by decide

-- T41.1
theorem test_jp : seen (ran 0x1ABC State.reset) (·.pc) = some 0x0ABC := by decide

-- T41.23
theorem test_call_pushes_unmasked :
    seen (ran 0x2300 (State.reset.setPc 0x0FFE)) (fun t => (t.pc, t.sp, t.stack[0])) =
      some (0x0300, 1, 0x1000) := by decide

-- T41.6
theorem test_call_overflow :
    seen (ran 0x2300 (atDepth 16 15 0 State.reset)) (fun t => (t.pc, t.sp, t.fault)) =
      some (0x0202, 16, some ⟨.stackOverflow, some 0x2300, 0x0200, none⟩) := by decide

-- T41.12
theorem test_seImm_taken : seen (ran 0x3142 (regs [(1, 0x42)])) (·.pc) = some 0x0204 := by decide

-- T41.13
theorem test_seImm_not_taken : seen (ran 0x3142 (regs [(1, 0x43)])) (·.pc) = some 0x0202 := by decide

-- T41.15
theorem test_sneImm_not_taken : seen (ran 0x4142 (regs [(1, 0x42)])) (·.pc) = some 0x0202 := by decide

-- T41.16
theorem test_sneImm_taken : seen (ran 0x4142 (regs [(1, 0x43)])) (·.pc) = some 0x0204 := by decide

-- T41.17
theorem test_seReg_taken : seen (ran 0x5120 (regs [(1, 9), (2, 9)])) (·.pc) = some 0x0204 := by decide

-- T41.18
theorem test_seReg_not_taken : seen (ran 0x5120 (regs [(1, 9), (2, 8)])) (·.pc) = some 0x0202 := by decide

-- T41.20
theorem test_sneReg_taken : seen (ran 0x9120 (regs [(1, 1), (2, 2)])) (·.pc) = some 0x0204 := by decide

-- T41.22
theorem test_sneReg_same_register : seen (ran 0x9330 (regs [(3, 0x77)])) (·.pc) = some 0x0202 := by decide

-- T41.10, first step
theorem test_jpV0_unmasked : seen (ran 0xBFFF (regs [(0, 0xFF)])) (·.pc) = some 0x10FE := by decide

-- T41.11
theorem test_jpV0_ignores_x : seen (ran 0xB300 (regs [(0, 4), (3, 0x50)])) (·.pc) = some 0x0304 := by decide

-- T42.2
theorem test_ldImm_flag : seen (ran 0x6F12 State.reset) (fun t => (t.readV 15, t.pc)) = some (0x12, 0x0202) := by decide

-- T42.4
theorem test_addImm_wraps_without_flag :
    seen (ran 0x7001 (regs [(0, 0xFF), (15, 5)])) (fun t => (t.readV 0, t.readV 15)) = some (0, 5) := by decide

-- T42.7
theorem test_ldReg : seen (ran 0x8CF0 (regs [(15, 1)])) (fun t => (t.readV 12, t.readV 15)) = some (1, 1) := by decide

-- T42.8
theorem test_orReg :
    seen (ran 0x8121 (regs [(1, 0x0F), (2, 0xF0), (15, 0x55)])) (fun t => (t.readV 1, t.readV 2, t.readV 15)) =
      some (0xFF, 0xF0, 0x55) := by decide

-- T42.9
theorem test_andReg :
    seen (ran 0x8122 (regs [(1, 0x3C), (2, 0x0F), (15, 0x55)])) (fun t => (t.readV 1, t.readV 15)) =
      some (0x0C, 0x55) := by decide

-- T42.10
theorem test_xorReg :
    seen (ran 0x8123 (regs [(1, 0xFF), (2, 0x0F), (15, 0x55)])) (fun t => (t.readV 1, t.readV 15)) =
      some (0xF0, 0x55) := by decide

-- T42.12
theorem test_addReg_carry :
    seen (ran 0x8124 (regs [(1, 0xFF), (2, 1)])) (fun t => (t.readV 1, t.readV 15)) = some (0, 1) := by decide

-- T42.15
theorem test_addReg_result_over_flag : seen (ran 0x8F14 (regs [(1, 0x20), (15, 0xF0)])) (·.readV 15) = some 0x10 := by
  decide

-- T42.19
theorem test_sub_borrow :
    seen (ran 0x8125 (regs [(1, 3), (2, 0x0A), (15, 1)])) (fun t => (t.readV 1, t.readV 15)) = some (0xF9, 0) := by
  decide

-- T42.22
theorem test_sub_flag_operand :
    seen (ran 0x81F5 (regs [(1, 5), (15, 3)])) (fun t => (t.readV 1, t.readV 15)) = some (4, 1) := by decide

-- T42.26
theorem test_shr_ignores_y :
    seen (ran 0x8126 (regs [(1, 0x10), (2, 0xFF), (15, 1)])) (fun t => (t.readV 1, t.readV 15)) = some (8, 0) := by
  decide

-- T42.24
theorem test_shr_flag_is_nibble :
    seen (ran 0x8106 (regs [(1, 0x37)])) (fun t => (t.readV 1, t.readV 15)) = some (0x1B, 7) := by decide

-- T42.34
theorem test_subn_equal :
    seen (ran 0x8127 (regs [(1, 5), (2, 5), (15, 1)])) (fun t => (t.readV 1, t.readV 15)) = some (0, 0) := by decide

-- T42.36
theorem test_subn_flag_operand :
    seen (ran 0x81F7 (regs [(1, 3), (15, 5)])) (fun t => (t.readV 1, t.readV 15)) = some (0xFE, 1) := by decide

-- T42.28
theorem test_shl_flag_in_place :
    seen (ran 0x810E (regs [(1, 0xC1)])) (fun t => (t.readV 1, t.readV 15)) = some (0x82, 0x80) := by decide

-- T42.31
theorem test_shl_of_flag : seen (ran 0x8F0E (regs [(15, 0xFF)])) (·.readV 15) = some 0 := by decide

-- T43.1
theorem test_ldI : seen (ran 0xAFFF State.reset) (·.i) = some 0x0FFF := by decide

-- T42.38
theorem test_rnd_draws_one_byte :
    seen (ran 0xC30F { State.reset with randIn := [0xA7, 0x11] }) (fun t => (t.readV 3, t.randIn)) =
      some (7, [0x11]) := by decide

-- T44.4
theorem test_drw_collision :
    seen (ran 0xDAB4 (storing 0x220 [0xFF, 0x81, 0x81, 0xFF] (((regs [(10, 0x3C), (11, 0x1E)]).setI 0x220).setDisplay
        (lit ([3, 60, 64, 65, 66, 67, 124, 125, 126, 127] ++ [1920, 1921, 1922, 1923, 1980, 1981, 1982, 1983, 1987, 2044])))))
      (fun t => (t.display, t.readV 15)) = some (lit [], 1) := by decide

-- T44.11
theorem test_drw_column_is_old_flag :
    seen (ran 0xDF11 (storing 0x300 [0x80] ((regs [(1, 2), (15, 4)]).setI 0x300)))
      (fun t => (t.display, t.readV 15)) = some (lit [132], 0) := by decide

-- T45.1
theorem test_skp_pressed : seen (ran 0xE19E ((regs [(1, 7)]).setKey 7 true)) (·.pc) = some 0x0204 := by decide

-- T45.8
theorem test_skp_key_16 :
    seen (ran 0xE19E (regs [(1, 0x10)])) (fun t => (t.pc, t.fault)) =
      some (0x0202, some ⟨.keyIndexOutOfRange, some 0xE19E, 0x0200, some 16⟩) := by decide

-- T45.7
theorem test_sknp_pressed : seen (ran 0xE1A1 ((regs [(1, 7)]).setKey 7 true)) (·.pc) = some 0x0202 := by decide

-- T45.9
theorem test_sknp_key_23 :
    seen (ran 0xE1A1 ((regs [(1, 0x17)]).setKey 7 true)) (·.fault) =
      some (some ⟨.keyIndexOutOfRange, some 0xE1A1, 0x0200, some 0x17⟩) := by decide

-- T45.4
theorem test_ldVxDt : seen (ran 0xF307 (State.reset.setDt 0x2A)) (·.readV 3) = some 0x2A := by decide

-- T45.10, first slot
theorem test_ldVxK_waits :
    seen (ran 0xF30A State.reset) (fun t => (t.runState, t.pc, t.readV 3)) =
      some (.waitingForKey 3, 0x0202, 0) := by decide

-- T45.5
theorem test_ldDtVx : seen (ran 0xFE15 (regs [(14, 3)])) (fun t => (t.dt, t.st)) = some (3, 0) := by decide

-- T45.6
theorem test_ldStVx :
    seen (ran 0xF218 (regs [(2, 0x10)])) (fun t => (t.st, t.dt, t.soundActive)) = some (0x10, 0, true) := by decide

-- T43.4
theorem test_addI_wraps :
    seen (ran 0xF21E ((regs [(2, 1), (15, 7)]).setI 0xFFFF)) (fun t => (t.i, t.readV 15)) = some (0, 7) := by decide

-- T43.7
theorem test_ldF_whole_byte : seen (ran 0xF029 (regs [(0, 0xFF)])) (·.i) = some 0x04FB := by decide

-- T43.9
theorem test_ldB_top_of_memory :
    seen (ran 0xF133 (storing 0xFFD [0xEE, 0xEE, 0xEE] ((regs [(1, 0xFF)]).setI 0xFFD)))
      (fun t => [0xFFD, 0xFFE, 0xFFF].map t.mem.byte) = some [2, 5, 5] := by decide

-- T43.10
theorem test_ldB_fault_writes_nothing :
    seen (ran 0xF133 (storing 0xFFE [0xEE, 0xEE] ((regs [(1, 0x7B)]).setI 0xFFE)))
      (fun t => (t.mem.byte 0xFFE, t.mem.byte 0xFFF, t.fault)) =
      some (0xEE, 0xEE, some ⟨.memoryOutOfBounds, some 0xF133, 0x0200, some 0x1000⟩) := by decide

-- T43.13
theorem test_ldMemVx_counts_by_value :
    seen (ran 0xF355 ((regs [(0, 0xAA), (1, 0xBB), (2, 0xCC), (3, 1)]).setI 0x400))
      (fun t => ([0x3FF, 0x400, 0x401, 0x402].map t.mem.byte, t.i)) = some ([0, 0xAA, 0xBB, 0], 0x400) := by decide

-- T43.17
theorem test_ldMemVx_zero_byte_outside :
    seen (ran 0xF055 ((regs [(0, 0x10)]).setI 0xFF0)) (fun t => (t.mem.byte 0xFF0, t.fault)) =
      some (0, some ⟨.memoryOutOfBounds, some 0xF055, 0x0200, some 0x1000⟩) := by decide

-- T43.19
theorem test_ldVxMem_count_taken_once :
    seen (ran 0xF065 (storing 0x300 [9, 8, 7, 6] ((regs [(0, 2), (3, 0x33)]).setI 0x300)))
      (fun t => [t.readV 0, t.readV 1, t.readV 2, t.readV 3]) = some [9, 8, 7, 0x33] := by decide

-- T43.24
theorem test_ldVxMem_last_bytes :
    seen (ran 0xF065 (storing 0xFF0 [0x21, 0x22] (storing 0xFFF [0x30] ((regs [(0, 0xFF)]).setI 0xFF0))))
      (fun t => (t.readV 0, t.readV 15, t.fault)) = some (0x21, 0x30, none) := by decide

-- T40.6: the second byte of a one-byte image is zero, and the first word is a self-jump
theorem test_reset_one_byte_image :
    seen (resetCall Params.default [0x12] State.reset) (fun t => (t.mem.fetch16 0x200, t.mem.byte 0x4F, t.pc)) =
      some (0x1200, 0x80, 0x0200) := by decide

-- T40.5: a fetch at 0xFFF raises at once and leaves `pc`
theorem test_fetch_at_0xFFF :
    seen (step (State.reset.setPc 0x0FFF)) (fun t => (t.pc, t.fault, t.slotsLeft)) =
      some (0x0FFF, some ⟨.fetchOutOfBounds, none, 0x0FFF, none⟩, none) := by decide

-- T40.4: no slots, a tick only
theorem test_cycle_without_slots :
    seen (cycle { (State.reset.setDt 2).setSt 1 with params := { ipt := 0, font := Config.defaultFont } })
      (fun t => (t.dt, t.st, t.pc)) = some (1, 0, 0x0200) := by decide

-- T45.11: a key already pressed resolves no wait; after its release the press does
theorem test_keyDown_needs_an_edge :
    let s := (State.reset.setKey 5 true).setRun (.waitingForKey 1)
    s.keyDown 5 = s ∧ ((s.keyUp 5).keyDown 5).readV 1 = 5 ∧ ((s.keyUp 5).keyDown 5).runState = .running := by decide

/-! ### Witnesses: for each statement with hypotheses, a state and operands that meet them -/

-- `DecodeOfEncodeIsIdentity`
theorem witness_wf : (Instr.drw 15 15 15).wf = true ∧ (Instr.jp 0xFFF).wf = true ∧ Instr.cls.wf = true := by decide

-- `EncodeOfDecodeIsTheWord`
theorem witness_decodes : decode 0x81FE#16 = .ok (.shl 1 15) ∧ encode (.shl 1 15) = 0x81FE#16 := by decide

-- `DecoderAgreesWithOpcodeRows`: a word that matches a row, one that matches none
theorem witness_rows :
    (0x8F06#16 &&& 0xF00F#16 = 0x8006#16 ∧ (0xF00F#16, 0x8006#16) ∈ opcodeRows) ∧
      opcodeRows.all (fun r => decide (0x8F08#16 &&& r.1 ≠ r.2)) = true := by decide

-- `StepRunsTheFetchedInstruction`: the last slot but nine, and the last slot at the highest fetch address
theorem witness_step_fetched :
    SlotOpen 9 (storing 0x200 [0x12, 0x00] State.reset) ∧
      decodeBytes [(storing 0x200 [0x12, 0x00] State.reset).mem.byte 0x200,
        (storing 0x200 [0x12, 0x00] State.reset).mem.byte 0x201] = .ok (.jp 0x200, []) :=
  ⟨⟨rfl, rfl, .inr ⟨rfl, rfl, rfl⟩⟩, by decide⟩

theorem witness_step_last_slot :
    SlotOpen 0 ((storing 0xFFE [0xF3, 0x0A] (State.reset.setPc 0x0FFE)).setSlots (some 1)) ∧
      decodeBytes [(storing 0xFFE [0xF3, 0x0A] State.reset).mem.byte 0xFFE,
        (storing 0xFFE [0xF3, 0x0A] State.reset).mem.byte 0xFFF] = .ok (.ldVxK 3, []) :=
  ⟨⟨rfl, rfl, .inl rfl⟩, by decide⟩

/-- Its four ends: a fault, slots to come, a last slot that keeps the machine running, a last slot that leaves it waiting. -/
theorem witness_step_ends :
    (∃ t, exec .ret (State.reset.setPc 0x202) = .next t ∧ t.fault ≠ none) ∧
      (∃ t, exec (.jp 0x200) (State.reset.setPc 0x202) = .next t ∧ t.fault = none ∧ t.runState = .running) ∧
      (∃ t, exec (.ldVxK 3) (State.reset.setPc 0x1000) = .next t ∧ t.fault = none ∧ t.runState ≠ .running) :=
  ⟨⟨_, rfl, by decide⟩, ⟨_, rfl, by decide⟩, ⟨_, rfl, by decide⟩⟩

-- `FetchOutsideMemoryFaults`: the lowest address outside the fetch range
theorem witness_fetch_outside : SlotOpen 9 (State.reset.setPc 0x0FFF) ∧ 0xFFE < (State.reset.setPc 0x0FFF).pc.toNat :=
  ⟨⟨rfl, rfl, .inr ⟨rfl, rfl, rfl⟩⟩, by decide⟩

-- `UnknownWordFaults`: T40.2's word, and the same at the highest fetch address
theorem witness_unknown_word :
    SlotOpen 9 State.reset ∧ decode (State.reset.mem.fetch16 0x200) = .error (.unknownWord 0) ∧
      SlotOpen 9 (State.reset.setPc 0x0FFE) ∧ decode (State.reset.mem.fetch16 0xFFE) = .error (.unknownWord 0) :=
  ⟨⟨rfl, rfl, .inr ⟨rfl, rfl, rfl⟩⟩, by decide, ⟨rfl, rfl, .inr ⟨rfl, rfl, rfl⟩⟩, by decide⟩

/-- A faulted machine: T41.8's end state. -/
def faulted : State := (State.reset.setPc 0x202).raiseIn .ret .stackUnderflow none

-- `FaultedMachineIsFrozen`: events ahead of a scheduled reset, and a slot of a cycle while a reset heads the schedule
theorem witness_faulted :
    faulted.fault ≠ none ∧
      (∀ p rom q, ¬Delivers (faulted.setInputs [.cycle, .keyDown 4, .reset q []]) (.reset p rom)) ∧
      ∀ p rom q, ¬Delivers ((faulted.setInputs [.reset q []]).setSlots (some 3)) (.reset p rom) :=
  ⟨by decide, fun _ _ _ h => (by obtain ⟨_, _, h⟩ := h; cases h), fun _ _ _ h => (by obtain ⟨h, _⟩ := h; cases h)⟩

/-- A machine that waits for a key, with a cycle ahead of a press and a reset. -/
def waiting : State := (State.reset.setRun (.waitingForKey 15)).setInputs [.cycle, .keyDown 7, .reset Params.default []]

-- `WaitingMachineIsFrozen`: what is scheduled behind the head, a head that is a release, and a slot while a press heads it
theorem witness_waiting :
    waiting.runState = .waitingForKey 15 ∧ (∀ p rom, ¬Delivers waiting (.reset p rom)) ∧
      (∀ c, ¬Delivers waiting (.keyDown c)) ∧ (∀ c, ¬Delivers waiting (.keyUp c)) ∧
      (∀ c, ¬Delivers (waiting.setInputs [.keyUp 3]) (.keyDown c)) ∧
      ∀ c, ¬Delivers ((waiting.setInputs [.keyDown 7]).setSlots (some 1)) (.keyDown c) :=
  ⟨rfl, fun _ _ h => (by obtain ⟨_, _, h⟩ := h; cases h), fun _ h => (by obtain ⟨_, _, h⟩ := h; cases h),
    fun _ h => (by obtain ⟨_, _, h⟩ := h; cases h), fun _ h => (by obtain ⟨_, _, h⟩ := h; cases h),
    fun _ h => (by obtain ⟨h, _⟩ := h; cases h)⟩

/-- A machine whose cycles have no slots. -/
def slotless : State := { State.reset with params := { ipt := 0, font := Config.defaultFont } }

-- `TickCountsBothTimersDown`, cycles of no slots: running and waiting, unscheduled and scheduled
theorem witness_slotless :
    slotless.slotsLeft = none ∧ slotless.params.ipt = 0 ∧ slotless.fault = none ∧ slotless.inputs = [] ∧
      slotless.runState = .running ∧ (slotless.setRun (.waitingForKey 0)).runState ≠ .running ∧
      (slotless.setInputs [.cycle, .snapshot]).inputs = .cycle :: [.snapshot] := by decide

-- `TickCountsBothTimersDown`: a last slot that runs on, one that faults, one that waits, and a slot with one to come
theorem witness_tick :
    (∃ t, slot (storing 0x200 [0x12, 0x00] (State.reset.setSlots (some 1))) = .next t ∧ t.fault = none ∧
      t.runState = .running) ∧
    (∃ t, slot (State.reset.setSlots (some 1)) = .next t ∧ t.fault ≠ none) ∧
    (∃ t, slot (storing 0x200 [0xF3, 0x0A] (State.reset.setSlots (some 1))) = .next t ∧ t.runState ≠ .running) ∧
    ∃ t, slot (storing 0x200 [0x12, 0x00] (State.reset.setSlots (some 2))) = .next t :=
  ⟨⟨_, rfl, by decide, by decide⟩, ⟨_, rfl, by decide⟩, ⟨_, rfl, by decide⟩, ⟨_, rfl⟩⟩

-- `SnapshotShowsTheDisplayRowByRow`
theorem witness_snapshot : (faulted.setInputs [.snapshot]).slotsLeft = none ∧
    (faulted.setInputs [.snapshot]).inputs = .snapshot :: [] := ⟨rfl, rfl⟩

-- `FetchIsBigEndian`: the highest fetch address
theorem witness_fetch_bound : 0xFFE ≤ 0xFFE := by decide

-- `StepsOfACycleAreTheCycleEvent`
theorem witness_between_events :
    State.reset.slotsLeft = none ∧ State.reset.inputs = [] ∧ (State.reset.setInputs [.cycle, .snapshot]).inputs = [.cycle, .snapshot] :=
  ⟨rfl, rfl, rfl⟩

-- `KeyPressResolvesAWaitOnADownEdge` and `KeyReleaseResolvesNoWait`
theorem witness_key_press :
    (State.reset.setRun (.waitingForKey 15)).fault = none ∧ (State.reset.setRun (.waitingForKey 15)).readKey 0 = false ∧
      State.reset.runState = .running ∧ (State.reset.setKey 5 true).readKey 5 = true ∧ faulted.fault ≠ none ∧
      (State.reset.setInputs [.keyDown 15]).inputs = [.keyDown 15] ∧ (State.reset.setInputs [.keyUp 0]).inputs = [.keyUp 0] := by
  decide

-- `ResetBuildsTheResetState` and `RejectedEventsChangeNothing`: the longest image, and one byte more; codes 15 and 16
theorem witness_image_lengths :
    ∃ fits long : List Byte, fits.length = 3584 ∧ fits.length ≤ 3584 ∧ 3584 < long.length ∧ ([] : List Byte).length ≤ 3584 := by
  refine ⟨List.replicate 3584 0xAA, List.replicate 3585 0xAA, ?_⟩
  rw [List.length_replicate, List.length_replicate]
  decide

/-- A reset that fits, at the head of the schedule of a faulted machine. -/
theorem witness_reset_scheduled :
    (faulted.setInputs [.reset Params.default [0x12, 0x00], .cycle]).slotsLeft = none ∧
      (faulted.setInputs [.reset Params.default [0x12, 0x00], .cycle]).inputs = .reset Params.default [0x12, 0x00] :: [.cycle] ∧
      ([0x12, 0x00] : List Byte).length ≤ 3584 := ⟨rfl, rfl, by decide⟩

theorem witness_rejected :
    15 < 16 ∧ 15 ≤ 15 ∧ (∀ p rom, HostEvent.cycle ≠ .reset p rom) ∧
      ∀ rom, (State.reset.setInputs [.reset Params.default rom]).inputs = [.reset Params.default rom] :=
  ⟨by decide, by decide, fun _ _ => by simp, fun _ => rfl⟩

/-- A machine in the middle of a cycle, one call deep, with an odd `pc` at its bound. -/
def midCycle : State := (atDepth 1 0 0x1000 (State.reset.setPc 0x10FE)).setSlots (some 10)

-- `EveryStepKeepsTheInvariant`: a running state, and a faulted one whose record is explained
theorem witness_inv_running : midCycle.Inv ∧ ∃ t, step midCycle = .next t :=
  ⟨⟨by decide, by decide, by decide, by decide, fun k h => (by cases h; decide), fun h => absurd rfl h, fun r h => (by cases h)⟩,
    ⟨_, rfl⟩⟩

/-- T41.8's end state with the word in memory. -/
def underflowed : State := storing 0x200 [0x00, 0xEE] faulted

theorem underflowed_fault : underflowed.fault = some ⟨.stackUnderflow, some 0x00EE, 0x200, none⟩ := by decide

theorem underflowed_explained (r : FaultRecord) (h : underflowed.fault = some r) : Explains underflowed r := by
  obtain rfl := Option.some.inj (underflowed_fault.symm.trans h)
  exact ⟨by decide, by decide, by decide, rfl, by decide⟩

theorem witness_inv_faulted : underflowed.Inv ∧ ∃ t, step underflowed = .next t :=
  ⟨⟨by decide, by decide, by decide, by decide, fun k h => (by cases h), fun _ => rfl, underflowed_explained⟩, ⟨_, rfl⟩⟩

-- `PlacedWordIsRunByTheNextStep`, with `pc` inside and outside the fetch range
theorem witness_placed :
    State.reset.mem.wf ∧ decodeTableWord 16 0x1ABC = some (.jp 0xABC) ∧ State.reset.pc.toNat ≤ 0xFFE ∧
      0xFFE < midCycle.pc.toNat ∧ midCycle.mem.wf := by decide

-- `EveryInstructionWritesOnlyWhatItsRuleNames` and `FaultingInstructionHasNoOtherEffect`
theorem witness_exec_faults :
    State.reset.fault = none ∧ (∃ t, exec .ret State.reset = .next t ∧ t.fault ≠ none) ∧
      ∃ t, exec (.ldB 1) (State.reset.setI 0xFFE) = .next t ∧ t.fault ≠ none :=
  ⟨rfl, ⟨_, rfl, by decide⟩, ⟨_, rfl, by decide⟩⟩

-- `StackPointerMovesByAtMostOne`: nothing scheduled, a slot while a reset heads the schedule; a step that calls
theorem witness_sp_moves :
    (∀ p rom, ¬Delivers State.reset (.reset p rom)) ∧
      (∀ p rom q, ¬Delivers ((State.reset.setInputs [.reset q []]).setSlots (some 2)) (.reset p rom)) ∧
      seen (step (storing 0x200 [0x23, 0x00] State.reset)) (·.sp) = some 1 :=
  ⟨fun _ _ h => (by obtain ⟨_, _, h⟩ := h; cases h), fun _ _ _ h => (by obtain ⟨h, _⟩ := h; cases h), by decide⟩

-- `OnlyKeySkipsReadTheKeypad`
theorem witness_not_a_key_skip : (∀ x, Instr.ldVxK 3 ≠ .skp x) ∧ ∀ x, Instr.ldVxK 3 ≠ .sknp x := by simp

-- `JumpsSetThePc`: the fetches that fault, at the lowest such target and at the highest
theorem witness_jump_targets :
    (0xFFF#12).toNat = 0xFFF ∧ 0xFFE < (0xFFF#12).toNat + ((regs []).readV 0).toNat ∧
      0xFFE < (0xFFF#12).toNat + ((regs [(0, 0xFF)]).readV 0).toNat := by decide

-- `SkipsOnRegisterComparison`
theorem witness_other_nibble : (15 : Nibble) ≠ 0 ∧ (1 : Nibble) ≠ 0 := by decide

-- `CallPushesTheReturnAddress`, `ReturnUndoesACall`: the empty stack and the last free slot; `CallOnAFullStackFaults`
theorem witness_call_depths :
    State.reset.sp.val < 16 ∧ (atDepth 15 0 0 State.reset).sp.val < 16 ∧ (atDepth 16 15 0 State.reset).sp.val = 16 := by decide

-- `ReturnPopsAndClearsTheSlot`: slots 0 and 15 on top, and slots that are not; `ReturnOnAnEmptyStackFaults`
theorem witness_return_depths :
    0 < (atDepth 1 0 0x206 State.reset).sp.val ∧ (0 : Fin 16).val + 1 = (atDepth 1 0 0x206 State.reset).sp.val ∧
      0 < (atDepth 16 15 0xABC State.reset).sp.val ∧ (15 : Fin 16).val + 1 = (atDepth 16 15 0xABC State.reset).sp.val ∧
      (14 : Fin 16).val + 1 ≠ (atDepth 16 15 0xABC State.reset).sp.val ∧ State.reset.sp.val = 0 := by decide

-- `StackFaultsAreRaisedAtTheBounds`
theorem witness_stack_bounds :
    State.reset.sp.val = 0 ∧ State.reset.fault = none ∧ (atDepth 16 15 0 State.reset).sp.val = 16 ∧
      (List.replicate 16 (0x300 : Addr12)).length = 16 := by decide

-- `LoadsWriteTheDestination`, `AddImmediateWrapsWithoutAFlag`, `AddSetsTheCarry`, `SubtractionSetsTheStrictFlag`,
-- `SubtractionWithTheFlagAsOperand`, `ShiftsSetTheUnnormalisedFlags`: operands that are `VF` and operands that are not
theorem witness_operands : (14 : Nibble) ≠ 15 ∧ (0 : Nibble) ≠ 15 ∧ (15 : Nibble) = 15 ∧ (0 : Byte) = 0#8 := by decide

-- `RandomIsOneDrawnByteUnderTheMask`: bytes supplied, and none
theorem witness_random :
    ({ State.reset with randIn := [0xA7, 0x11] } : State).randIn = 0xA7#8 :: [0x11#8] ∧ State.reset.randIn = [] ∧
      (0xFF : Byte) = 0xFF#8 := by decide

-- `BcdStoresThreeDigits`: the highest base that fits
theorem witness_bcd : State.reset.mem.wf ∧ (State.reset.setI 0xFFD).i.toNat + 2 ≤ 0xFFF := by decide

-- `DumpStoresAsManyBytesAsTheValueSays`, `LoadAfterDumpRestoresTheRegisters`: one byte at the top of memory, and 256 bytes
-- with an index beyond 15
theorem witness_dump :
    ((regs [(1, 0)]).setI 0xFFF).mem.wf ∧ ((regs [(1, 0)]).setI 0xFFF).i.toNat + ((regs [(1, 0)]).readV 1).toNat ≤ 0xFFF ∧
      ((regs [(1, 255)]).setI 0xF00).i.toNat + ((regs [(1, 255)]).readV 1).toNat ≤ 0xFFF ∧
      16 ≤ 255 ∧ 255 ≤ ((regs [(1, 255)]).readV 1).toNat ∧ (15 : Nibble).toNat ≤ ((regs [(1, 255)]).readV 1).toNat := by decide

/-- The dump of one register and a second state that meets the restore's premises, its registers overwritten. -/
theorem witness_restore :
    ∃ t, exec (.ldMemVx 1) ((regs [(0, 0x5A), (1, 0)]).setI 0xFFF) = .next t ∧
      (t.setV 0 0xEE).mem = t.mem ∧ (t.setV 0 0xEE).i = 0xFFF ∧ (t.setV 0 0xEE).readV 2 = (regs [(1, 0)]).readV 1 :=
  ⟨_, rfl, rfl, by decide, by decide⟩

-- `LoadFillsAsManyRegistersAsTheValueSays`: counts 15 and 16, the last bytes of memory, a register loaded and one not
theorem witness_load :
    ((regs [(1, 15)]).setI 0xFF0).i.toNat + min ((regs [(1, 15)]).readV 1).toNat 15 ≤ 0xFFF ∧
      ((regs [(1, 16)]).setI 0xFF0).i.toNat + min ((regs [(1, 16)]).readV 1).toNat 15 ≤ 0xFFF ∧
      (15 : Nibble).toNat ≤ min ((regs [(1, 16)]).readV 1).toNat 15 ∧
      min ((regs [(1, 14)]).readV 1).toNat 15 < (15 : Nibble).toNat := by decide

-- `AccessOutsideMemoryFaults`: the lowest `I` that faults, per instruction
theorem witness_access_outside :
    (0 < (1 : Nibble).toNat ∧ 0xFFF < (State.reset.setI 0x1000).i.toNat + ((1 : Nibble).toNat - 1)) ∧
      0xFFF < (State.reset.setI 0xFFE).i.toNat + 2 ∧
      0xFFF < ((regs [(0, 16)]).setI 0xFF0).i.toNat + ((regs [(0, 16)]).readV 0).toNat ∧
      0xFFF < ((regs [(0, 255)]).setI 0xFF1).i.toNat + min ((regs [(0, 255)]).readV 0).toNat 15 := by decide

-- `ClearTurnsEveryCellOff`
theorem witness_clear : decode 0x00E0#16 = .ok .cls ∧ ∀ idx, Display.cell State.reset.display idx = false :=
  ⟨by decide, Display.cell_clear⟩

/-- T44.7: a one-row sprite on a lit cell 0. -/
def onLitCell : State := storing 0x300 [0x80] ((State.reset.setI 0x300).setDisplay (lit [0]))

-- `DrawTurnsOverTheCellsUnderTheSprite`: the last row at 0xFFF, no rows with `I` outside, a lit and an unlit cell covered
theorem witness_draw :
    (State.reset.setI 0xFF1).i.toNat + ((15 : Nibble).toNat - 1) ≤ 0xFFF ∧ (0 : Nibble).toNat = 0 ∧
      SpriteCovers onLitCell (onLitCell.readV 0).toNat (onLitCell.readV 0).toNat 1 0 ∧
      Display.cell onLitCell.display 0 = true ∧
      Display.cell (storing 0x300 [0x80] (State.reset.setI 0x300)).display 0 = false :=
  ⟨by decide, by decide, ⟨0, 0, by decide, by decide, by decide, by decide⟩, by decide, by decide⟩

-- `DrawingTwiceRestoresTheDisplay`: coordinates that stay, `VF` among them, on an empty display under a set bit
theorem witness_draw_twice :
    ∃ t, exec (.drw 15 2 1) (storing 0x300 [0x80] (State.reset.setI 0x300)) = .next t ∧ t.readV 15 = State.reset.readV 15 ∧
      t.readV 2 = State.reset.readV 2 ∧ (∀ idx, Display.cell State.reset.display idx = false) ∧
      SpriteCovers (storing 0x300 [0x80] (State.reset.setI 0x300)) 0 0 1 0 :=
  ⟨_, rfl, by decide, by decide, Display.cell_clear, ⟨0, 0, by decide, by decide, by decide, by decide⟩⟩

-- `KeySkipsTestTheKey` and `KeyCodeOutOfRangeFaults`: the highest code, and the next value
theorem witness_key_codes :
    ((regs [(1, 15)]).readV 1).toNat = (15 : Nibble).toNat ∧ 15 < ((regs [(1, 16)]).readV 1).toNat ∧
      15 < ((regs [(1, 255)]).readV 1).toNat := by decide

end Sys2Proof.Tests
end

section
/-! PROOFS. The family `20_memory.md`: the fetch as two byte reads, the byte at the lower address first. -/

namespace Sys2Proof

/-- The two bytes of a word as numbers: bits 15-8 count 256 each (rule R61). -/
theorem toNat_eq_highByte_lowByte (w : Word) : w.toNat = (highByte w).toNat * 256 + (lowByte w).toNat := by
  have hw := w.isLt
  simp only [highByte, lowByte, BitVec.extractLsb'_toNat, Nat.shiftRight_eq_div_pow]
  omega

/-- `hi * 256 + lo`, the value rule R61 gives the fetch of two bytes. -/
theorem wordOfBytes_toNat (hi lo : Byte) : (wordOfBytes hi lo).toNat = hi.toNat * 256 + lo.toNat := by
  rw [toNat_eq_highByte_lowByte, highByte_wordOfBytes, lowByte_wordOfBytes]

namespace Machine

theorem Memory.fetch16_toNat (m : Memory) (a : Nat) :
    (m.fetch16 a).toNat = (m.byte a).toNat * 256 + (m.byte (a + 1)).toNat :=
  wordOfBytes_toNat _ _

@[simp] theorem Memory.highByte_fetch16 (m : Memory) (a : Nat) : highByte (m.fetch16 a) = m.byte a :=
  highByte_wordOfBytes _ _

@[simp] theorem Memory.lowByte_fetch16 (m : Memory) (a : Nat) : lowByte (m.fetch16 a) = m.byte (a + 1) :=
  lowByte_wordOfBytes _ _

/-- A read inside memory gives the byte there (rule R63). -/
theorem Memory.readChecked_of_le (m : Memory) {a : Nat} (ha : a ≤ 0xFFF) : m.readChecked a = some (m.byte a) := by
  rw [Memory.readChecked_eq, if_pos ha]

/-- Settles O6, from the two bytes of a word put together and the bounds of the two reads (rules R61, R63). -/
theorem fetchIsBigEndian : Obligations.FetchIsBigEndian := by
  intro m a
  refine ⟨m.fetch16_toNat a, m.highByte_fetch16 a, m.lowByte_fetch16 a, fun ha => ?_⟩
  exact ⟨m.readChecked_of_le (by omega), m.readChecked_of_le (by omega)⟩

end Machine
end Sys2Proof
end

section
/-! PROOFS. The family `41_flow.md`: the two skips on a comparison of registers. -/

namespace Sys2Proof

/-- In family 5 the low nibble is the decoder's second key (rule R94). -/
theorem decode_encXyn_five (x y n : Nibble) :
    decode (encXyn 0x5 x y n) =
      if n = 0 then .ok (.seReg x y) else .error (.unknownWord (encXyn 0x5 x y n)) := by
  simp [decode]

/-- In family 9 the low nibble is the decoder's second key (rule R94). -/
theorem decode_encXyn_nine (x y n : Nibble) :
    decode (encXyn 0x9 x y n) =
      if n = 0 then .ok (.sneReg x y) else .error (.unknownWord (encXyn 0x9 x y n)) := by
  simp [decode]

namespace Machine

/-- Settles O30, from the decoder on families 5 and 9 and the execution equations of the two skips, which set `pc`
alone (rules R157, R158). -/
theorem skipsOnRegisterComparison : Obligations.SkipsOnRegisterComparison := by
  intro x y s
  refine ⟨⟨?encodesSe, ?encodesSne⟩, fun n hn => ⟨?unknownSe, ?unknownSne⟩,
    ⟨_, exec_seReg x y s, ?pcSe, ?sameSe, s.setPc_readV _ _, s.setPc_fault _⟩,
    ⟨_, exec_sneReg x y s, ?pcSne, ?sameSne, s.setPc_readV _ _, s.setPc_fault _⟩⟩
  case encodesSe => exact (decode_encXyn_five x y 0).trans (if_pos rfl)
  case encodesSne => exact (decode_encXyn_nine x y 0).trans (if_pos rfl)
  case unknownSe => exact (decode_encXyn_five x y n).trans (if_neg hn)
  case unknownSne => exact (decode_encXyn_nine x y n).trans (if_neg hn)
  case pcSe => simp only [State.setPc_pc, BitVec.toNat_inj]
  case pcSne => simp only [State.setPc_pc, BitVec.toNat_inj]
  case sameSe => rintro rfl; exact if_pos rfl
  case sameSne => rintro rfl; exact if_pos rfl

end Machine
end Sys2Proof
end

section
/-! PROOFS. The family `42_alu.md`: loads and additions. -/

namespace Sys2Proof

/-- Family 6 has one row (rule R170). -/
theorem decode_encXkk_six (x : Nibble) (kk : Byte) : decode (encXkk 0x6 x kk) = .ok (.ldImm x kk) := by
  simp [decode]

/-- Family 7 has one row (rule R171). -/
theorem decode_encXkk_seven (x : Nibble) (kk : Byte) : decode (encXkk 0x7 x kk) = .ok (.addImm x kk) := by
  simp [decode]

/-- In family 8 the last nibble 0 is the load's (rules R94, R174). -/
theorem decode_encXyn_eight_zero (x y : Nibble) : decode (encXyn 0x8 x y 0) = .ok (.ldReg x y) := by
  simp [decode, decodeFamily8]

/-- In family 8 the last nibble 4 is the addition's (rules R94, R178). -/
theorem decode_encXyn_eight_four (x y : Nibble) : decode (encXyn 0x8 x y 4) = .ok (.addReg x y) := by
  simp [decode, decodeFamily8]

namespace Machine

/-- A register written with the value it holds: the state is unchanged. -/
@[simp] theorem State.setV_readV_self (s : State) (x : Nibble) : s.setV x (s.readV x) = s := by
  simp [State.setV, State.readV]

/-- A write to a register other than `VF` leaves the flag (rule R22). -/
theorem State.readV_flag_setV (s : State) {x : Nibble} (hx : x ≠ 15) (b : Byte) :
    (s.setV x b).readV 15 = s.readV 15 :=
  s.readV_setV_other hx.symm b

/-- The flag write is what `VF` holds (rule R22). -/
@[simp] theorem State.readV_flag_setVF (s : State) (b : Byte) : (s.setVF b).readV 15 = b :=
  s.readV_setV_same 15 b

/-- Settles O40: the sum is written last, so it is what `V[x]` holds even where `x` is `VF`, and with `x ≠ 15` the flag
written before it stays (rule R178). -/
theorem addSetsTheCarry : Obligations.AddSetsTheCarry := by
  intro x y s
  refine ⟨decode_encXyn_eight_four x y, _, exec_addReg x y s, ?sum, fun hx => ?carry, rfl⟩
  case sum => rw [State.readV_setV_same, BitVec.toNat_add]
  case carry => rw [State.readV_flag_setV _ hx, State.readV_flag_setVF, carryFlag_eq]

/-- Settles O37: both loads are one register write, and `8xy0` with `x = y` writes the value back (rules R170, R174). -/
theorem loadsWriteTheDestination : Obligations.LoadsWriteTheDestination := by
  refine ⟨fun x kk s => ?immediate, fun x y s => ?register⟩
  case immediate =>
    exact ⟨decode_encXkk_six x kk, _, exec_ldImm x kk s, s.readV_setV_same x kk, fun hx => s.readV_flag_setV hx kk, rfl⟩
  case register =>
    refine ⟨decode_encXyn_eight_zero x y, _, exec_ldReg x y s, s.readV_setV_same x _,
      fun hx => s.readV_flag_setV hx _, ?_, rfl⟩
    rintro rfl
    exact s.setV_readV_self x

/-- Settles O38: one register write of the sum, and a zero add writes the value back (rule R171). -/
theorem addImmediateWrapsWithoutAFlag : Obligations.AddImmediateWrapsWithoutAFlag := by
  intro x kk s
  refine ⟨decode_encXkk_seven x kk, _, exec_addImm x kk s, ?sum, fun hx => s.readV_flag_setV hx _, ?zero, rfl⟩
  case sum => rw [State.readV_setV_same, BitVec.toNat_add]
  case zero =>
    rintro rfl
    rw [BitVec.add_zero, State.setV_readV_self]
    exact ⟨rfl, rfl⟩

end Machine
end Sys2Proof
end

section
/-! PROOFS. The family `43_index_memory.md`: the two loads of `I`. -/

namespace Sys2Proof

/-- Family A has one row (rule R200). -/
theorem decode_encNnn_ten (nnn : Addr12) : decode (encNnn 0xA nnn) = .ok (.ldI nnn) := by
  simp [decode]

/-- In family F the low byte 0x29 is the glyph load's (rules R94, R202). -/
theorem decode_encXkk_fifteen_glyph (x : Nibble) : decode (encXkk 0xF x 0x29) = .ok (.ldF x) := by
  simp [decode, decodeFamilyF]

/-- Zero extension keeps an address's value (rule R8). -/
@[simp] theorem zextAddr_toNat (a : Addr12) : (zextAddr a).toNat = a.toNat :=
  BitVec.toNat_setWidth_of_le (by decide)

/-- Zero extension keeps a byte's value (rule R8). -/
@[simp] theorem zextByte_toNat (b : Byte) : (zextByte b).toNat = b.toNat :=
  BitVec.toNat_setWidth_of_le (by decide)

/-- Five bytes a glyph: the exact product, since a byte times five fits in 16 bits (rule R202). -/
theorem zextByte_mul_five_toNat (b : Byte) : (zextByte b * 5#16).toNat = b.toNat * 5 := by
  have hb := b.isLt
  rw [BitVec.toNat_mul, zextByte_toNat, BitVec.toNat_ofNat]
  omega

namespace Machine

/-- Settles O45: both loads are one write of `I`, which leaves the registers and the latch; a 12-bit address and five
times a byte both fit in 16 bits (rules R200, R202). -/
theorem indexLoads : Obligations.IndexLoads := by
  refine ⟨fun nnn s => ?address, fun x s => ?glyph⟩
  case address =>
    exact ⟨decode_encNnn_ten nnn, _, exec_ldI nnn s, zextAddr_toNat nnn, s.setI_readV _ 15, s.setI_fault _⟩
  case glyph =>
    have hI := zextByte_mul_five_toNat (s.readV x)
    have hbound : (s.readV x).toNat * 5 ≤ 1275 := Nat.mul_le_mul_right 5 (Nat.le_of_lt_succ (s.readV x).isLt)
    exact ⟨decode_encXkk_fifteen_glyph x, _, exec_ldF x s, hI, hI.trans_le hbound, s.setI_readV _ 15, s.setI_fault _⟩

end Machine
end Sys2Proof
end

section
/-! PROOFS. The family `44_display.md`: clearing the display. -/

namespace Sys2Proof

/-- Family 8 has no row for `00E0` (rule R97 rows 10-18). -/
theorem decodeFamily8_ne_cls (w : Word) : decodeFamily8 w ≠ .ok .cls := by
  unfold decodeFamily8
  split <;> simp

/-- Family E has no row for `00E0` (rule R97 rows 24, 25). -/
theorem decodeFamilyE_ne_cls (w : Word) : decodeFamilyE w ≠ .ok .cls := by
  unfold decodeFamilyE
  split <;> simp

/-- Family F has no row for `00E0` (rule R97 rows 26-34). -/
theorem decodeFamilyF_ne_cls (w : Word) : decodeFamilyF w ≠ .ok .cls := by
  unfold decodeFamilyF
  split <;> simp

/-- Only family 0 answers `00E0`, and there the whole word is the key (rules R94, R220). -/
theorem decode_eq_cls_iff (w : Word) : decode w = .ok .cls ↔ w = 0x00E0#16 := by
  refine ⟨fun h => ?onlyWord, ?word⟩
  case word => rintro rfl; rfl
  case onlyWord =>
    unfold decode at h
    split at h
    case h_1 => simpa [ite_eq_iff] using h
    all_goals
      simp [ite_eq_iff, decodeFamily8_ne_cls, decodeFamilyE_ne_cls, decodeFamilyF_ne_cls] at h

namespace Machine

/-- The clear display is the only one with every cell 0 (rule R28). -/
theorem Display.eq_clear_of_cell_eq_false {d : Display} (h : ∀ idx, Display.cell d idx = false) : d = Display.clear :=
  Display.eq_of_cell_eq fun idx => (h idx).trans (Display.cell_clear idx).symm

/-- Writing back the display that stands there changes nothing. -/
@[simp] theorem State.setDisplay_self (s : State) : s.setDisplay s.display = s := rfl

/-- Settles O52: only the word 0x00E0 decodes to it, and it is one write of the clear display, which is the display
that stood there where every cell was 0 (rule R220). -/
theorem clearTurnsEveryCellOff : Obligations.ClearTurnsEveryCellOff := by
  refine ⟨decode_eq_cls_iff, fun s => ⟨_, exec_cls s, Display.cell_clear, fun hoff => ?alreadyClear,
    s.setDisplay_readV _ 15, s.setDisplay_fault _⟩⟩
  case alreadyClear => rw [← Display.eq_clear_of_cell_eq_false hoff, State.setDisplay_self]

end Machine
end Sys2Proof
end

section
/-! PROOFS. The family `60_exceptions.md`: the two stack faults at the bounds of the stack. -/

namespace Sys2Proof.Machine

/-- The call with a slot left (rule R153). -/
theorem exec_call_of_lt (nnn : Addr12) {s : State} (h : s.sp.val < 16) :
    exec (.call nnn) s = .next ((s.push s.pc h).setPc (zextAddr nnn)) := by
  rw [exec_call, dif_pos h]

/-- The call with no slot left (rules R153, R266). -/
theorem exec_call_of_full (nnn : Addr12) {s : State} (h : s.sp.val = 16) :
    exec (.call nnn) s = .next (s.raiseIn (.call nnn) .stackOverflow none) := by
  rw [exec_call, dif_neg (by omega)]

/-- The return with no slot used (rules R151, R265). -/
theorem exec_ret_of_empty {s : State} (h : s.sp.val = 0) :
    exec .ret s = .next (s.raiseIn .ret .stackUnderflow none) := by
  rw [exec_ret, dif_neg (by omega)]

/-- Calls the stack has room for nest: each uses one slot, and none touches the latch. -/
theorem callAll_of_fits (targets : List Addr12) (s : State) (hroom : s.sp.val + targets.length ≤ 16) :
    ∃ t, callAll targets s = .next t ∧ t.fault = s.fault ∧ t.sp.val = s.sp.val + targets.length := by
  induction targets generalizing s with
  | nil => exact ⟨s, rfl, rfl, rfl⟩
  | cons nnn rest ih =>
    rw [List.length_cons] at hroom
    have hfree : s.sp.val < 16 := by omega
    obtain ⟨t, hrun, hfault, hdepth⟩ := ih ((s.push s.pc hfree).setPc (zextAddr nnn)) (by
      rw [State.setPc_sp, State.push_sp]
      omega)
    refine ⟨t, ?_, hfault, ?_⟩
    · rw [callAll, exec_call_of_lt nnn hfree, andThen_next, hrun]
    · rw [hdepth, State.setPc_sp, State.push_sp, List.length_cons]
      omega

/-- Settles O35: the return at depth 0 and the call at depth 16 raise, and sixteen calls that nest lead from depth 0
to depth 16 (rules R265, R266). -/
theorem stackFaultsAreRaisedAtTheBounds : Obligations.StackFaultsAreRaisedAtTheBounds := by
  refine ⟨fun s hempty => ?underflow, fun nnn s hfull => ?overflow, fun targets nnn s hempty hclear hlength => ?nesting⟩
  case underflow => exact ⟨_, _, exec_ret_of_empty hempty, s.raiseIn_fault _ _ _, rfl, rfl⟩
  case overflow => exact ⟨_, _, exec_call_of_full nnn hfull, s.raiseIn_fault _ _ _, rfl, rfl⟩
  case nesting =>
    obtain ⟨t, hrun, hfault, hdepth⟩ := callAll_of_fits targets s (by omega)
    have hfull : t.sp.val = 16 := by omega
    exact ⟨t, _, _, hrun, hfault.trans hclear, hfull, exec_call_of_full nnn hfull, t.raiseIn_fault _ _ _, rfl⟩

end Sys2Proof.Machine
end

section
/-! PROOFS. The family `30_encoding.md`: the decoder and the encoder are each other's inverse, and the decoder agrees
with the rows of rule R97 and with the families of rule R99. -/

namespace Sys2Proof

/-! ### Decoding what was encoded -/

/-- The decoder reads an instruction back from its word: one row for each constructor (rules R92, R94, R97). -/
@[simp] theorem decode_encode (i : Instr) : decode (encode i) = .ok i := by
  cases i
  case cls | ret => rfl
  all_goals simp [encode, decode, decodeFamily8, decodeFamilyE, decodeFamilyF]

/-- Two bytes in front of any others: decoding reads their word (rules R61, R90). -/
theorem decodeBytes_bytes (w : Word) (rest : List Byte) :
    decodeBytes (highByte w :: lowByte w :: rest) = (decode w).map fun i => (i, rest) := by
  rw [decodeBytes, wordOfBytes_bytes]

/-- Settles O2, from the decoder on each constructor's word. -/
theorem decodeOfEncodeIsIdentity : Obligations.DecodeOfEncodeIsIdentity := by
  intro i _
  refine ⟨decode_encode i, fun rest => ?_⟩
  rw [encodeBytes, List.cons_append, List.cons_append, List.nil_append, decodeBytes_bytes, decode_encode]
  rfl

/-- Settles O1: the decoder evaluated on the fifteen words. -/
theorem sampleWordsDecode : Obligations.SampleWordsDecode := by
  unfold Obligations.SampleWordsDecode
  decide

/-! ### A word is its fields: one lemma per format -/

theorem encNnn_of_fieldOp {w : Word} {op : Nibble} (hop : fieldOp w = op) : encNnn op (fieldNnn w) = w := by
  rw [← hop, encNnn_fields]

theorem encXkk_of_fieldOp {w : Word} {op : Nibble} (hop : fieldOp w = op) :
    encXkk op (fieldX w) (fieldKk w) = w := by
  rw [← hop, encXkk_fields]

theorem encXyn_of_fieldOp {w : Word} {op : Nibble} (hop : fieldOp w = op) :
    encXyn op (fieldX w) (fieldY w) (fieldN w) = w := by
  rw [← hop, encXyn_fields]

/-- Format X: the low byte is a second key. -/
theorem encX_of_fields {w : Word} {op : Nibble} {kk : Byte} (hop : fieldOp w = op) (hkk : fieldKk w = kk) :
    encXkk op (fieldX w) kk = w := by
  rw [← hkk, encXkk_of_fieldOp hop]

/-- Format XY: the low nibble is a second key. -/
theorem encXy_of_fields {w : Word} {op n : Nibble} (hop : fieldOp w = op) (hn : fieldN w = n) :
    encXyn op (fieldX w) (fieldY w) n = w := by
  rw [← hn, encXyn_of_fieldOp hop]

/-! ### Encoding what was decoded -/

theorem encode_of_decodeFamily8 {w : Word} {i : Instr} (hop : fieldOp w = 0x8) (h : decodeFamily8 w = .ok i) :
    encode i = w := by
  unfold decodeFamily8 at h
  split at h <;> cases h <;> exact encXy_of_fields hop (eq_ofNat_of_toNat ‹_›)

theorem encode_of_decodeFamilyE {w : Word} {i : Instr} (hop : fieldOp w = 0xE) (h : decodeFamilyE w = .ok i) :
    encode i = w := by
  unfold decodeFamilyE at h
  split at h <;> cases h <;> exact encX_of_fields hop (eq_ofNat_of_toNat ‹_›)

theorem encode_of_decodeFamilyF {w : Word} {i : Instr} (hop : fieldOp w = 0xF) (h : decodeFamilyF w = .ok i) :
    encode i = w := by
  unfold decodeFamilyF at h
  split at h <;> cases h <;> exact encX_of_fields hop (eq_ofNat_of_toNat ‹_›)

/-- Every branch of the decoder keeps all the fields of the word it reads (rules R94, R95). -/
theorem encode_of_decode {w : Word} {i : Instr} (h : decode w = .ok i) : encode i = w := by
  unfold decode at h
  split at h
  case h_1 =>
    split at h
    case isTrue hw => cases h; exact hw.symm
    case isFalse =>
      split at h <;> cases h
      case isTrue hw => exact hw.symm
  case h_6 hop | h_10 hop =>
    split at h <;> cases h
    case isTrue hn => exact encXy_of_fields (eq_ofNat_of_toNat hop) hn
  case h_9 hop => exact encode_of_decodeFamily8 (eq_ofNat_of_toNat hop) h
  case h_15 hop => exact encode_of_decodeFamilyE (eq_ofNat_of_toNat hop) h
  case h_16 hop => exact encode_of_decodeFamilyF (eq_ofNat_of_toNat hop) h
  case h_17 => cases h
  case h_2 hop | h_3 hop | h_11 hop | h_12 hop => cases h; exact encNnn_of_fieldOp (eq_ofNat_of_toNat hop)
  case h_14 hop => cases h; exact encXyn_of_fieldOp (eq_ofNat_of_toNat hop)
  all_goals cases h; exact encXkk_of_fieldOp (eq_ofNat_of_toNat ‹_›)

/-- Settles O3, branch by branch of the decoder. -/
theorem encodeOfDecodeIsTheWord : Obligations.EncodeOfDecodeIsTheWord := fun _ _ h => encode_of_decode h

/-! ### Rejection -/

theorem decodeFamily8_error {w : Word} {e : DecodeError} (h : decodeFamily8 w = .error e) : e = .unknownWord w := by
  unfold decodeFamily8 at h
  split at h <;> cases h
  rfl

theorem decodeFamilyE_error {w : Word} {e : DecodeError} (h : decodeFamilyE w = .error e) : e = .unknownWord w := by
  unfold decodeFamilyE at h
  split at h <;> cases h
  rfl

theorem decodeFamilyF_error {w : Word} {e : DecodeError} (h : decodeFamilyF w = .error e) : e = .unknownWord w := by
  unfold decodeFamilyF at h
  split at h <;> cases h
  rfl

/-- The decoder rejects a word by the word's own name (rule R99). -/
theorem decode_error {w : Word} {e : DecodeError} (h : decode w = .error e) : e = .unknownWord w := by
  unfold decode at h
  split at h
  case h_9 => exact decodeFamily8_error h
  case h_15 => exact decodeFamilyE_error h
  case h_16 => exact decodeFamilyF_error h
  all_goals simp_all [ite_eq_iff]

/-- A word is rejected exactly when it is no instruction's word. -/
theorem decode_eq_unknown_iff (w : Word) :
    decode w = .error (.unknownWord w) ↔ ∀ i, encode i ≠ w := by
  refine ⟨fun h i hi => ?rejected, fun h => ?noWord⟩
  case rejected =>
    rw [← hi, decode_encode] at h
    cases h
  case noWord =>
    cases hd : decode w with
    | ok i => exact absurd (encode_of_decode hd) (h i)
    | error e => rw [decode_error hd]

/-! ### The rows of rule R97 -/

theorem fieldOp_and (w m : Word) : fieldOp (w &&& m) = fieldOp w &&& fieldOp m := BitVec.extractLsb'_and

theorem fieldN_and (w m : Word) : fieldN (w &&& m) = fieldN w &&& fieldN m := BitVec.extractLsb'_and

theorem fieldKk_and (w m : Word) : fieldKk (w &&& m) = fieldKk w &&& fieldKk m := BitVec.extractLsb'_and

/-- A mask that keeps the opcode nibble: the match's opcode is the word's. -/
theorem fieldOp_of_row {w mask row : Word} (h : w &&& mask = row) (hmask : fieldOp mask = 0xF) :
    fieldOp w = fieldOp row := by
  rw [← h, fieldOp_and, hmask]
  exact (BitVec.and_allOnes (x := fieldOp w)).symm

theorem fieldN_of_row {w mask row : Word} (h : w &&& mask = row) (hmask : fieldN mask = 0xF) :
    fieldN w = fieldN row := by
  rw [← h, fieldN_and, hmask]
  exact (BitVec.and_allOnes (x := fieldN w)).symm

theorem fieldKk_of_row {w mask row : Word} (h : w &&& mask = row) (hmask : fieldKk mask = 0xFF) :
    fieldKk w = fieldKk row := by
  rw [← h, fieldKk_and, hmask]
  exact (BitVec.and_allOnes (x := fieldKk w)).symm

/-- Format NNN: a word under the mask of the opcode nibble. -/
theorem encNnn_of_row {w row : Word} {op : Nibble} (h : w &&& 0xF000#16 = row) (hop : fieldOp row = op) :
    encNnn op (fieldNnn w) = w :=
  encNnn_of_fieldOp ((fieldOp_of_row h rfl).trans hop)

/-- Format XKK. -/
theorem encXkk_of_row {w row : Word} {op : Nibble} (h : w &&& 0xF000#16 = row) (hop : fieldOp row = op) :
    encXkk op (fieldX w) (fieldKk w) = w :=
  encXkk_of_fieldOp ((fieldOp_of_row h rfl).trans hop)

/-- Format XYN. -/
theorem encXyn_of_row {w row : Word} {op : Nibble} (h : w &&& 0xF000#16 = row) (hop : fieldOp row = op) :
    encXyn op (fieldX w) (fieldY w) (fieldN w) = w :=
  encXyn_of_fieldOp ((fieldOp_of_row h rfl).trans hop)

/-- Format XY: the mask keeps the low nibble too. -/
theorem encXy_of_row {w row : Word} {op n : Nibble} (h : w &&& 0xF00F#16 = row) (hop : fieldOp row = op)
    (hn : fieldN row = n) : encXyn op (fieldX w) (fieldY w) n = w :=
  encXy_of_fields ((fieldOp_of_row h rfl).trans hop) ((fieldN_of_row h rfl).trans hn)

/-- Format X: the mask keeps the low byte too. -/
theorem encX_of_row {w row : Word} {op : Nibble} {kk : Byte} (h : w &&& 0xF0FF#16 = row) (hop : fieldOp row = op)
    (hkk : fieldKk row = kk) : encXkk op (fieldX w) kk = w :=
  encX_of_fields ((fieldOp_of_row h rfl).trans hop) ((fieldKk_of_row h rfl).trans hkk)

theorem eq_of_row_allOnes {w row : Word} (h : w &&& 0xFFFF#16 = row) : row = w :=
  h.symm.trans BitVec.and_allOnes

/-- A word that matches a row is the word of an instruction of that row. -/
theorem exists_encode_of_row {w : Word} {r : Word × Word} (hr : r ∈ opcodeRows) (h : w &&& r.1 = r.2) :
    ∃ i : Instr, encode i = w ∧ i.maskMatch = r := by
  simp only [opcodeRows, List.cons_append, List.nil_append, List.mem_cons, List.not_mem_nil, or_false] at hr
  rcases hr with rfl | rfl | rfl | rfl | rfl | rfl | rfl | rfl | rfl | rfl | rfl | rfl | rfl | rfl | rfl | rfl | rfl |
    rfl | rfl | rfl | rfl | rfl | rfl | rfl | rfl | rfl | rfl | rfl | rfl | rfl | rfl | rfl | rfl | rfl
  · exact ⟨.cls, eq_of_row_allOnes h, rfl⟩
  · exact ⟨.ret, eq_of_row_allOnes h, rfl⟩
  · exact ⟨.jp _, encNnn_of_row h rfl, rfl⟩
  · exact ⟨.call _, encNnn_of_row h rfl, rfl⟩
  · exact ⟨.seImm _ _, encXkk_of_row h rfl, rfl⟩
  · exact ⟨.sneImm _ _, encXkk_of_row h rfl, rfl⟩
  · exact ⟨.seReg _ _, encXy_of_row h rfl rfl, rfl⟩
  · exact ⟨.ldImm _ _, encXkk_of_row h rfl, rfl⟩
  · exact ⟨.addImm _ _, encXkk_of_row h rfl, rfl⟩
  · exact ⟨.ldReg _ _, encXy_of_row h rfl rfl, rfl⟩
  · exact ⟨.orReg _ _, encXy_of_row h rfl rfl, rfl⟩
  · exact ⟨.andReg _ _, encXy_of_row h rfl rfl, rfl⟩
  · exact ⟨.xorReg _ _, encXy_of_row h rfl rfl, rfl⟩
  · exact ⟨.addReg _ _, encXy_of_row h rfl rfl, rfl⟩
  · exact ⟨.sub _ _, encXy_of_row h rfl rfl, rfl⟩
  · exact ⟨.shr _ _, encXy_of_row h rfl rfl, rfl⟩
  · exact ⟨.subn _ _, encXy_of_row h rfl rfl, rfl⟩
  · exact ⟨.shl _ _, encXy_of_row h rfl rfl, rfl⟩
  · exact ⟨.sneReg _ _, encXy_of_row h rfl rfl, rfl⟩
  · exact ⟨.ldI _, encNnn_of_row h rfl, rfl⟩
  · exact ⟨.jpV0 _, encNnn_of_row h rfl, rfl⟩
  · exact ⟨.rnd _ _, encXkk_of_row h rfl, rfl⟩
  · exact ⟨.drw _ _ _, encXyn_of_row h rfl, rfl⟩
  · exact ⟨.skp _, encX_of_row h rfl rfl, rfl⟩
  · exact ⟨.sknp _, encX_of_row h rfl rfl, rfl⟩
  · exact ⟨.ldVxDt _, encX_of_row h rfl rfl, rfl⟩
  · exact ⟨.ldVxK _, encX_of_row h rfl rfl, rfl⟩
  · exact ⟨.ldDtVx _, encX_of_row h rfl rfl, rfl⟩
  · exact ⟨.ldStVx _, encX_of_row h rfl rfl, rfl⟩
  · exact ⟨.addI _, encX_of_row h rfl rfl, rfl⟩
  · exact ⟨.ldF _, encX_of_row h rfl rfl, rfl⟩
  · exact ⟨.ldB _, encX_of_row h rfl rfl, rfl⟩
  · exact ⟨.ldMemVx _, encX_of_row h rfl rfl, rfl⟩
  · exact ⟨.ldVxMem _, encX_of_row h rfl rfl, rfl⟩

theorem maskMatch_mem_opcodeRows (i : Instr) : i.maskMatch ∈ opcodeRows := by
  cases i <;> simp [Instr.maskMatch, opcodeRows]

/-- The word of an instruction matches its row. -/
theorem encode_maskMatch (i : Instr) : encode i &&& i.maskMatch.1 = i.maskMatch.2 := by
  cases i
  case cls => exact Laws.RowMatch.cls
  case ret => exact Laws.RowMatch.ret
  case jp | call | ldI | jpV0 => exact encNnn_mask _ _
  case seImm | sneImm | ldImm | addImm | rnd => exact encXkk_mask _ _ _
  case drw => exact encXyn_mask _ _ _ _
  case skp | sknp | ldVxDt | ldVxK | ldDtVx | ldStVx | addI | ldF | ldB | ldMemVx | ldVxMem => exact encX_mask _ _ _
  all_goals exact encXy_mask _ _ _ _

/-- Settles O4: the words of a row are the words of its instructions, and a word is the word of at most one
instruction. -/
theorem decoderAgreesWithOpcodeRows : Obligations.DecoderAgreesWithOpcodeRows := by
  intro w
  refine ⟨fun i hi => ?itsRow, ?noRow, fun r hr q hq hwr hwq => ?oneRow⟩
  case itsRow =>
    refine ⟨maskMatch_mem_opcodeRows i, ?_⟩
    rw [← encode_of_decode hi, encode_maskMatch]
  case noRow =>
    rw [decode_eq_unknown_iff]
    refine ⟨fun h r hr hwr => ?_, fun h i hi => ?_⟩
    · obtain ⟨i, hi, -⟩ := exists_encode_of_row hr hwr
      exact h i hi
    · exact h _ (maskMatch_mem_opcodeRows i) (hi ▸ encode_maskMatch i)
  case oneRow =>
    obtain ⟨i, hi, rfl⟩ := exists_encode_of_row hr hwr
    obtain ⟨j, hj, rfl⟩ := exists_encode_of_row hq hwq
    have hij : i = j := Except.ok.inj <| by rw [← decode_encode i, hi, ← hj, decode_encode]
    rw [hij]

/-! ### The families of rule R99, over the word as a number -/

theorem fieldOp_toNat (w : Word) : (fieldOp w).toNat = w.toNat / 4096 := by
  have hw := w.isLt
  simp only [fieldOp, BitVec.extractLsb'_toNat, Nat.shiftRight_eq_div_pow]
  omega

theorem fieldN_toNat (w : Word) : (fieldN w).toNat = w.toNat % 16 := by
  simp [fieldN, BitVec.extractLsb'_toNat]

theorem fieldKk_toNat (w : Word) : (fieldKk w).toNat = w.toNat % 256 := by
  simp [fieldKk, BitVec.extractLsb'_toNat]

theorem decodeFamily8_eq_unknown_iff (w : Word) :
    decodeFamily8 w = .error (.unknownWord w) ↔ (fieldN w).toNat ∈ [0x8, 0x9, 0xA, 0xB, 0xC, 0xD, 0xF] := by
  have hn : (fieldN w).toNat < 16 := (fieldN w).isLt
  unfold decodeFamily8
  split <;> simp_all
  omega

theorem decodeFamilyE_eq_unknown_iff (w : Word) :
    decodeFamilyE w = .error (.unknownWord w) ↔ (fieldKk w).toNat ∉ [0x9E, 0xA1] := by
  unfold decodeFamilyE
  split <;> simp_all

theorem decodeFamilyF_eq_unknown_iff (w : Word) :
    decodeFamilyF w = .error (.unknownWord w) ↔
      (fieldKk w).toNat ∉ [0x07, 0x0A, 0x15, 0x18, 0x1E, 0x29, 0x33, 0x55, 0x65] := by
  unfold decodeFamilyF
  split <;> simp_all

/-- Settles O5: each branch of the decoder is one value of the opcode nibble, and the second keys are remainders. -/
theorem unknownWordsAreThoseOfTheFamilyTable : Obligations.UnknownWordsAreThoseOfTheFamilyTable := by
  intro w
  rw [← fieldOp_toNat, ← fieldN_toNat, ← fieldKk_toNat, ← decodeFamily8_eq_unknown_iff,
    ← decodeFamilyE_eq_unknown_iff, ← decodeFamilyF_eq_unknown_iff]
  have hop : (fieldOp w).toNat < 16 := (fieldOp w).isLt
  have hn : (fieldN w).toNat = 0 ↔ fieldN w = 0#4 := BitVec.toNat_inj (y := 0#4)
  have hcls : w.toNat = 0x00E0 ↔ w = 0x00E0#16 := BitVec.toNat_inj (y := 0x00E0#16)
  have hret : w.toNat = 0x00EE ↔ w = 0x00EE#16 := BitVec.toNat_inj (y := 0x00EE#16)
  unfold decode
  split
  case h_17 =>
    simp only [imp_false] at *
    omega
  all_goals simp [*, ite_eq_iff]

end Sys2Proof
end

section
/-! PROOFS. Frames: what each update of the state leaves alone, and how frames compose. -/

namespace Sys2Proof.Machine

/-! ### Composing frames -/

theorem Part.same_refl (p : Part) (s : State) : p.same s s := by
  cases p <;> simp [Part.same]

theorem Part.same_trans {p : Part} {s t u : State} (h : p.same s t) (h' : p.same t u) : p.same s u := by
  cases p <;> simp_all [Part.same]

theorem KeepsAllBut.refl (ps : List Part) (s : State) : KeepsAllBut ps s s := fun p _ => p.same_refl s

theorem KeepsAllBut.mono {ps qs : List Part} {s t : State} (h : KeepsAllBut ps s t) (hsub : ps ⊆ qs) :
    KeepsAllBut qs s t := fun p hp => h p fun hp' => hp (hsub hp')

theorem KeepsAllBut.trans {ps : List Part} {s t u : State} (h : KeepsAllBut ps s t) (h' : KeepsAllBut ps t u) :
    KeepsAllBut ps s u := fun p hp => Part.same_trans (h p hp) (h' p hp)

/-- Two updates in a row, each inside the parts named. -/
theorem KeepsAllBut.trans_of_subset {ps qs rs : List Part} {s t u : State} (h : KeepsAllBut ps s t)
    (h' : KeepsAllBut qs t u) (hps : ps ⊆ rs) (hqs : qs ⊆ rs) : KeepsAllBut rs s u :=
  (h.mono hps).trans (h'.mono hqs)

/-! ### The frame of each update -/

theorem State.setV_keeps (s : State) (x : Nibble) (b : Byte) : KeepsAllBut [.registers] s (s.setV x b) := by
  intro p hp
  cases p <;> simp_all [Part.same]

theorem State.setVF_keeps (s : State) (b : Byte) : KeepsAllBut [.registers] s (s.setVF b) := s.setV_keeps 15#4 b

theorem State.loadRegs_keeps (s : State) (m : Nat) : KeepsAllBut [.registers] s (s.loadRegs m) := by
  intro p hp
  cases p <;> simp_all [Part.same]

theorem State.setI_keeps (s : State) (w : Word) : KeepsAllBut [.index] s (s.setI w) := by
  intro p hp
  cases p <;> simp_all [Part.same]

theorem State.setPc_keeps (s : State) (w : Word) : KeepsAllBut [.pc] s (s.setPc w) := by
  intro p hp
  cases p <;> simp_all [Part.same]

theorem State.push_keeps (s : State) (w : Word) (h : s.sp.val < 16) : KeepsAllBut [.stack] s (s.push w h) := by
  intro p hp
  cases p <;> simp_all [Part.same]

theorem State.pop_keeps (s : State) (h : 0 < s.sp.val) : KeepsAllBut [.stack] s (s.pop h) := by
  intro p hp
  cases p <;> simp_all [Part.same]

theorem State.setDisplay_keeps (s : State) (d : Display) : KeepsAllBut [.display] s (s.setDisplay d) := by
  intro p hp
  cases p <;> simp_all [Part.same]

theorem State.setKey_keeps (s : State) (c : Nibble) (b : Bool) : KeepsAllBut [.keypad] s (s.setKey c b) := by
  intro p hp
  cases p <;> simp_all [Part.same]

theorem State.setDt_keeps (s : State) (b : Byte) : KeepsAllBut [.delayTimer] s (s.setDt b) := by
  intro p hp
  cases p <;> simp_all [Part.same]

theorem State.setSt_keeps (s : State) (b : Byte) : KeepsAllBut [.soundTimer] s (s.setSt b) := by
  intro p hp
  cases p <;> simp_all [Part.same]

theorem State.tick_keeps (s : State) : KeepsAllBut [.delayTimer, .soundTimer] s s.tick := by
  intro p hp
  cases p <;> simp_all [Part.same]

theorem State.setRun_keeps (s : State) (r : RunState) : KeepsAllBut [.runState] s (s.setRun r) := by
  intro p hp
  cases p <;> simp_all [Part.same]

theorem State.setMem_keeps (s : State) (m : Memory) : KeepsAllBut [.memory] s (s.setMem m) := by
  intro p hp
  cases p <;> simp_all [Part.same]

theorem State.raise_keeps (s : State) (c : Cause) (w : Option Word) (pc : Word) (n : Option Nat) :
    KeepsAllBut [.fault] s (s.raise c w pc n) := by
  intro p hp
  cases p <;> simp_all [Part.same]

theorem State.raiseIn_keeps (s : State) (i : Instr) (c : Cause) (n : Option Nat) :
    KeepsAllBut [.fault] s (s.raiseIn i c n) := s.raise_keeps c _ _ n

theorem State.setSlots_keeps (s : State) (k : Option Nat) : KeepsAllBut [.schedule] s (s.setSlots k) := by
  intro p hp
  cases p <;> simp_all [Part.same]

theorem State.setInputs_keeps (s : State) (es : List HostEvent) : KeepsAllBut [.schedule] s (s.setInputs es) := by
  intro p hp
  cases p <;> simp_all [Part.same]

theorem State.afterDraw_readKey (s : State) (c : Nibble) : s.afterDraw.readKey c = s.readKey c := by
  simp [State.readKey]

theorem State.afterDraw_keeps (s : State) : KeepsAllBut [.random] s s.afterDraw := by
  intro p hp
  cases p <;> simp_all [Part.same, State.afterDraw_readKey]

/-! ### Registers -/

theorem KeepsRegsBut.of_keepsAllBut {ps : List Part} (rs : List Nibble) {s t : State} (h : KeepsAllBut ps s t)
    (hps : Part.registers ∉ ps) : KeepsRegsBut rs s t := fun r _ => h .registers hps r

theorem State.setV_keepsRegs (s : State) (x : Nibble) (b : Byte) : KeepsRegsBut [x] s (s.setV x b) :=
  fun _ hr => s.readV_setV_other (fun h => hr (List.mem_singleton.2 h)) b

/-- The flag write and the write of the destination after it. -/
theorem State.setVF_setV_keepsRegs (s : State) (x : Nibble) (flag b : Byte) :
    KeepsRegsBut [x, 15] s ((s.setVF flag).setV x b) := by
  intro r hr
  obtain ⟨hx, hf⟩ : r ≠ x ∧ r ≠ 15 := by simpa using hr
  rw [State.readV_setV_other _ hx]
  exact s.readV_setV_other hf flag

theorem State.setVF_setV_keeps (s : State) (x : Nibble) (flag b : Byte) :
    KeepsAllBut [.registers] s ((s.setVF flag).setV x b) :=
  (s.setVF_keeps flag).trans ((s.setVF flag).setV_keeps x b)

end Sys2Proof.Machine
end

section
/-! PROOFS. What the body of an instruction can do: the check it makes, the fault the check raises, and the frame of a
body whose check passes (`40_step_and_cycle.md` rule R124, `60_exceptions.md` rule R262). -/

namespace Sys2Proof.Machine

/-! ### Checks -/

/-- The check in the body of an instruction: the cause and the extra value of the fault it raises, if it raises one
(rules R151, R153, R199, R240, R241). -/
def faultOf (i : Instr) (s : State) : Option (Cause × Option Nat) :=
  match i with
  | .ret => if s.sp.val = 0 then some (.stackUnderflow, none) else none
  | .call _ => if s.sp.val = 16 then some (.stackOverflow, none) else none
  | .drw _ _ n => if s.spriteFits n.toNat then none else some (.memoryOutOfBounds, some s.lowestOutside)
  | .ldB _ => if s.spanFits 2 then none else some (.memoryOutOfBounds, some s.lowestOutside)
  | .ldMemVx x => if s.spanFits (s.readV x).toNat then none else some (.memoryOutOfBounds, some s.lowestOutside)
  | .ldVxMem x => if s.spanFits (loadLast (s.readV x)) then none else some (.memoryOutOfBounds, some s.lowestOutside)
  | .skp x | .sknp x =>
    if 15 < (s.readV x).toNat then some (.keyIndexOutOfRange, some (s.readV x).toNat) else none
  | _ => none

/-- A body whose check fails raises, and does nothing else. -/
theorem exec_of_faultOf_some {i : Instr} {s : State} {c : Cause} {n : Option Nat} (h : faultOf i s = some (c, n)) :
    exec i s = .next (s.raiseIn i c n) := by
  cases i <;> simp only [faultOf, reduceCtorEq, Option.ite_none_left_eq_some, Option.ite_none_right_eq_some,
    Option.some.injEq, Prod.mk.injEq] at h
  all_goals obtain ⟨hcheck, rfl, rfl⟩ := h
  case ret => exact exec_ret_of_empty hcheck
  case call nnn => exact exec_call_of_full nnn hcheck
  case drw => rw [exec_drw, if_neg hcheck]
  case skp => rw [exec_skp, if_pos hcheck]
  case sknp => rw [exec_sknp, if_pos hcheck]
  case ldB => rw [exec_ldB, if_neg hcheck]
  case ldMemVx => rw [exec_ldMemVx, if_neg hcheck]
  case ldVxMem => rw [exec_ldVxMem, if_neg hcheck]

/-! ### Bodies whose check passes -/

theorem pos_of_faultOf_ret {s : State} (h : faultOf .ret s = none) : 0 < s.sp.val := by
  simpa [faultOf, Nat.pos_iff_ne_zero] using h

theorem lt_of_faultOf_call {nnn : Addr12} {s : State} (h : faultOf (.call nnn) s = none) : s.sp.val < 16 := by
  simp [faultOf] at h
  omega

theorem fits_of_faultOf_drw {x y n : Nibble} {s : State} (h : faultOf (.drw x y n) s = none) :
    s.spriteFits n.toNat = true := by
  simpa [faultOf] using h

theorem code_of_faultOf_skp {x : Nibble} {s : State} (h : faultOf (.skp x) s = none) : (s.readV x).toNat ≤ 15 := by
  simpa [faultOf] using h

theorem code_of_faultOf_sknp {x : Nibble} {s : State} (h : faultOf (.sknp x) s = none) : (s.readV x).toNat ≤ 15 :=
  code_of_faultOf_skp h

theorem fits_of_faultOf_ldB {x : Nibble} {s : State} (h : faultOf (.ldB x) s = none) : s.spanFits 2 = true := by
  simpa [faultOf] using h

theorem fits_of_faultOf_ldMemVx {x : Nibble} {s : State} (h : faultOf (.ldMemVx x) s = none) :
    s.spanFits (s.readV x).toNat = true := by
  simpa [faultOf] using h

theorem fits_of_faultOf_ldVxMem {x : Nibble} {s : State} (h : faultOf (.ldVxMem x) s = none) :
    s.spanFits (loadLast (s.readV x)) = true := by
  simpa [faultOf] using h

theorem exec_ret_of_pos {s : State} (h : 0 < s.sp.val) : exec .ret s = .next ((s.pop h).setPc (s.top h)) := by
  rw [exec_ret, dif_pos h]

theorem exec_drw_of_fits (x y : Nibble) {n : Nibble} {s : State} (h : s.spriteFits n.toNat = true) :
    exec (.drw x y n) s = .next ((s.setDisplay (s.drawn (s.readV x) (s.readV y) n.toNat).1).setVF
      (collisionFlag (s.drawn (s.readV x) (s.readV y) n.toNat).2)) := by
  rw [exec_drw, if_pos h]

theorem exec_skp_of_le {x : Nibble} {s : State} (h : (s.readV x).toNat ≤ 15) :
    exec (.skp x) s = .next (s.setPc (if s.readKey ((s.readV x).setWidth 4) then s.pc + 2#16 else s.pc)) := by
  rw [exec_skp, if_neg (by omega)]

theorem exec_sknp_of_le {x : Nibble} {s : State} (h : (s.readV x).toNat ≤ 15) :
    exec (.sknp x) s = .next (s.setPc (if s.readKey ((s.readV x).setWidth 4) then s.pc else s.pc + 2#16)) := by
  rw [exec_sknp, if_neg (by omega)]

theorem exec_ldB_of_fits (x : Nibble) {s : State} (h : s.spanFits 2 = true) :
    exec (.ldB x) s = .next (s.setMem (s.mem.writeBytes s.i.toNat (bcdDigits (s.readV x)))) := by
  rw [exec_ldB, if_pos h]

theorem exec_ldMemVx_of_fits {x : Nibble} {s : State} (h : s.spanFits (s.readV x).toNat = true) :
    exec (.ldMemVx x) s =
      .next (s.setMem (s.mem.writeBytes s.i.toNat (s.dumpBytes (s.readV x).toNat))) := by
  rw [exec_ldMemVx, if_pos h]

theorem exec_ldVxMem_of_fits {x : Nibble} {s : State} (h : s.spanFits (loadLast (s.readV x)) = true) :
    exec (.ldVxMem x) s = .next (s.loadRegs (loadLast (s.readV x))) := by
  rw [exec_ldVxMem, if_pos h]

/-! ### The frame of a body -/

/-- What a body writes when its check passes: the parts its rule names, without the latch. -/
def partsChanged (i : Instr) : List Part := (partsWritten i).filter (· ≠ .fault)

/-- Memory after is memory before with bytes, possibly none, stored from `I` on. -/
def StoresFromI (s t : State) : Prop := ∃ bs, t.mem = s.mem.writeBytes s.i.toNat bs

theorem StoresFromI.of_mem_eq {s t : State} (h : t.mem = s.mem) : StoresFromI s t := ⟨[], h⟩

theorem StoresFromI.wf {s t : State} (h : StoresFromI s t) (hm : s.mem.wf) : t.mem.wf := by
  obtain ⟨bs, hbs⟩ := h
  rw [hbs]
  exact Memory.wf_writeBytes hm _ bs

/-- A body answers a state inside its frame. -/
def AnswersWithin (i : Instr) (s : State) (ps : List Part) (rs : List Nibble) : Prop :=
  ∃ t, exec i s = .next t ∧ KeepsAllBut ps s t ∧ KeepsRegsBut rs s t ∧ StoresFromI s t

/-- A body that writes registers and not memory. -/
theorem AnswersWithin.of_keepsRegs {i : Instr} {s t : State} {ps : List Part} {rs : List Nibble}
    (he : exec i s = .next t) (hk : KeepsAllBut ps s t) (hr : KeepsRegsBut rs s t) (hm : t.mem = s.mem) :
    AnswersWithin i s ps rs := ⟨t, he, hk, hr, .of_mem_eq hm⟩

/-- A body that writes no register. -/
theorem AnswersWithin.of_keeps {i : Instr} {s t : State} {ps : List Part} {rs : List Nibble}
    (he : exec i s = .next t) (hk : KeepsAllBut ps s t) (hps : ps.contains .registers = false)
    (hm : StoresFromI s t) : AnswersWithin i s ps rs :=
  ⟨t, he, hk, .of_keepsAllBut rs hk (by simpa using hps), hm⟩

theorem AnswersWithin.of_setV {i : Instr} {s : State} {x : Nibble} {b : Byte} (he : exec i s = .next (s.setV x b)) :
    AnswersWithin i s [.registers] [x] := .of_keepsRegs he (s.setV_keeps x b) (s.setV_keepsRegs x b) rfl

/-- A body that writes the flag and then its destination. -/
theorem AnswersWithin.of_setVF_setV {i : Instr} {s : State} {x : Nibble} {flag b : Byte}
    (he : exec i s = .next ((s.setVF flag).setV x b)) : AnswersWithin i s [.registers] [x, 15] :=
  .of_keepsRegs he (s.setVF_setV_keeps x flag b) (s.setVF_setV_keepsRegs x flag b) rfl

theorem AnswersWithin.of_setPc {i : Instr} {s : State} {w : Word} (he : exec i s = .next (s.setPc w)) :
    AnswersWithin i s [.pc] [] := .of_keeps he (s.setPc_keeps w) rfl ⟨[], rfl⟩

theorem AnswersWithin.of_setI {i : Instr} {s : State} {w : Word} (he : exec i s = .next (s.setI w)) :
    AnswersWithin i s [.index] [] := .of_keeps he (s.setI_keeps w) rfl ⟨[], rfl⟩

theorem State.pop_setPc_keeps (s : State) (h : 0 < s.sp.val) (w : Word) :
    KeepsAllBut [.pc, .stack] s ((s.pop h).setPc w) :=
  (s.pop_keeps h).trans_of_subset ((s.pop h).setPc_keeps w) (by simp) (by simp)

theorem State.push_setPc_keeps (s : State) (v : Word) (h : s.sp.val < 16) (w : Word) :
    KeepsAllBut [.pc, .stack] s ((s.push v h).setPc w) :=
  (s.push_keeps v h).trans_of_subset ((s.push v h).setPc_keeps w) (by simp) (by simp)

theorem State.setDisplay_setVF_keeps (s : State) (d : Display) (b : Byte) :
    KeepsAllBut [.registers, .display] s ((s.setDisplay d).setVF b) :=
  (s.setDisplay_keeps d).trans_of_subset ((s.setDisplay d).setVF_keeps b) (by simp) (by simp)

theorem State.afterDraw_setV_keeps (s : State) (x : Nibble) (b : Byte) :
    KeepsAllBut [.registers, .random] s (s.afterDraw.setV x b) :=
  s.afterDraw_keeps.trans_of_subset (s.afterDraw.setV_keeps x b) (by simp) (by simp)

theorem State.afterDraw_setV_keepsRegs (s : State) (x : Nibble) (b : Byte) :
    KeepsRegsBut [x] s (s.afterDraw.setV x b) := fun r hr => by
  rw [s.afterDraw.setV_keepsRegs x b r hr, State.afterDraw_readV]

theorem mem_regsWritten_ldVxMem (x r : Nibble) : r ∈ regsWritten (.ldVxMem x) := by
  revert r
  simp only [regsWritten]
  decide

/-- A body whose check passes writes only what its rule names (rule R124). -/
theorem answersWithin_of_faultOf_none {i : Instr} {s : State} (h : faultOf i s = none) :
    AnswersWithin i s (partsChanged i) (regsWritten i) := by
  cases i
  case cls => exact .of_keeps (exec_cls s) (s.setDisplay_keeps _) rfl ⟨[], rfl⟩
  case ret => exact .of_keeps (exec_ret_of_pos (pos_of_faultOf_ret h)) (s.pop_setPc_keeps _ _) rfl ⟨[], rfl⟩
  case jp nnn => exact .of_setPc (exec_jp nnn s)
  case call nnn =>
    exact .of_keeps (exec_call_of_lt nnn (lt_of_faultOf_call h)) (s.push_setPc_keeps _ _ _) rfl ⟨[], rfl⟩
  case seImm x kk => exact .of_setPc (exec_seImm x kk s)
  case sneImm x kk => exact .of_setPc (exec_sneImm x kk s)
  case seReg x y => exact .of_setPc (exec_seReg x y s)
  case ldImm x kk => exact .of_setV (exec_ldImm x kk s)
  case addImm x kk => exact .of_setV (exec_addImm x kk s)
  case ldReg x y => exact .of_setV (exec_ldReg x y s)
  case orReg x y => exact .of_setV (exec_orReg x y s)
  case andReg x y => exact .of_setV (exec_andReg x y s)
  case xorReg x y => exact .of_setV (exec_xorReg x y s)
  case addReg x y => exact .of_setVF_setV (exec_addReg x y s)
  case sub x y => exact .of_setVF_setV (exec_sub x y s)
  case shr x y => exact .of_setVF_setV (exec_shr x y s)
  case subn x y => exact .of_setVF_setV (exec_subn x y s)
  case shl x y => exact .of_setVF_setV (exec_shl x y s)
  case sneReg x y => exact .of_setPc (exec_sneReg x y s)
  case ldI nnn => exact .of_setI (exec_ldI nnn s)
  case jpV0 nnn => exact .of_setPc (exec_jpV0 nnn s)
  case rnd x kk =>
    exact .of_keepsRegs (exec_rnd x kk s) (s.afterDraw_setV_keeps _ _) (s.afterDraw_setV_keepsRegs _ _) s.afterDraw_mem
  case drw x y n =>
    exact .of_keepsRegs (exec_drw_of_fits x y (fits_of_faultOf_drw h)) (s.setDisplay_setVF_keeps _ _)
      (State.setV_keepsRegs _ 15#4 _) rfl
  case skp x => exact .of_setPc (exec_skp_of_le (code_of_faultOf_skp h))
  case sknp x => exact .of_setPc (exec_sknp_of_le (code_of_faultOf_sknp h))
  case ldVxDt x => exact .of_setV (exec_ldVxDt x s)
  case ldVxK x => exact .of_keeps (exec_ldVxK x s) (s.setRun_keeps _) rfl ⟨[], rfl⟩
  case ldDtVx x => exact .of_keeps (exec_ldDtVx x s) (s.setDt_keeps _) rfl ⟨[], rfl⟩
  case ldStVx x => exact .of_keeps (exec_ldStVx x s) (s.setSt_keeps _) rfl ⟨[], rfl⟩
  case addI x => exact .of_setI (exec_addI x s)
  case ldF x => exact .of_setI (exec_ldF x s)
  case ldB x => exact .of_keeps (exec_ldB_of_fits x (fits_of_faultOf_ldB h)) (s.setMem_keeps _) rfl ⟨_, rfl⟩
  case ldMemVx x => exact .of_keeps (exec_ldMemVx_of_fits (fits_of_faultOf_ldMemVx h)) (s.setMem_keeps _) rfl ⟨_, rfl⟩
  case ldVxMem x =>
    exact .of_keepsRegs (exec_ldVxMem_of_fits (fits_of_faultOf_ldVxMem h)) (s.loadRegs_keeps _)
      (fun r hr => absurd (mem_regsWritten_ldVxMem x r) hr) rfl

/-- What a body can do: raise the fault of its check and nothing else, or answer a state in its frame. -/
theorem exec_cases {i : Instr} {s t : State} (h : exec i s = .next t) :
    (∃ c n, faultOf i s = some (c, n) ∧ t = s.raiseIn i c n) ∨
    (faultOf i s = none ∧ KeepsAllBut (partsChanged i) s t ∧ KeepsRegsBut (regsWritten i) s t ∧ StoresFromI s t) := by
  cases hf : faultOf i s with
  | some f =>
    rw [exec_of_faultOf_some hf] at h
    exact .inl ⟨f.1, f.2, rfl, (Host.Outcome.next.inj h).symm⟩
  | none =>
    obtain ⟨u, hu, hwithin⟩ := answersWithin_of_faultOf_none hf
    obtain rfl : u = t := Host.Outcome.next.inj (hu.symm.trans h)
    exact .inr ⟨rfl, hwithin⟩

theorem exec_next (i : Instr) (s : State) : ∃ t, exec i s = .next t := by
  cases hf : faultOf i s with
  | some f => exact ⟨_, exec_of_faultOf_some hf⟩
  | none =>
    obtain ⟨t, ht, -⟩ := answersWithin_of_faultOf_none hf
    exact ⟨t, ht⟩

theorem fault_mem_partsWritten {i : Instr} {s : State} {f : Cause × Option Nat} (h : faultOf i s = some f) :
    Part.fault ∈ partsWritten i := by
  cases i
  case ret | call | drw | skp | sknp | ldB | ldMemVx | ldVxMem => simp [partsWritten]
  all_goals cases h

theorem exec_keepsAllBut_partsWritten {i : Instr} {s t : State} (h : exec i s = .next t) :
    KeepsAllBut (partsWritten i) s t := by
  rcases exec_cases h with ⟨c, n, hf, rfl⟩ | ⟨-, hkeeps, -, -⟩
  · exact (s.raiseIn_keeps i c n).mono (by simpa using fault_mem_partsWritten hf)
  · exact hkeeps.mono (List.filter_subset_self _)

/-- Settles O23: a failed check writes the latch alone, and a passed one leaves the body inside its frame. -/
theorem everyInstructionWritesOnlyWhatItsRuleNames : Obligations.EveryInstructionWritesOnlyWhatItsRuleNames := by
  intro i s t h
  refine ⟨exec_keepsAllBut_partsWritten h, ?registers⟩
  case registers =>
    rcases exec_cases h with ⟨c, n, -, rfl⟩ | ⟨-, -, hregs, -⟩
    · exact .of_keepsAllBut _ (s.raiseIn_keeps i c n) (by decide)
    · exact hregs

/-- Settles O24: with the latch empty before, a latched record is the one the check raised. -/
theorem faultingInstructionHasNoOtherEffect : Obligations.FaultingInstructionHasNoOtherEffect := by
  intro i s t hclear h hraised
  rcases exec_cases h with ⟨c, n, -, rfl⟩ | ⟨-, hkeeps, -, -⟩
  · exact ⟨s.raiseIn_keeps i c n, _, s.raiseIn_fault i c n, rfl, rfl⟩
  · have hsame : t.fault = s.fault := hkeeps .fault (by simp [partsChanged])
    exact absurd (hsame.trans hclear) hraised

end Sys2Proof.Machine
end

section
/-! PROOFS. The step: that it always answers a next state, what it can do, and what a faulted or waiting machine does in
it (`40_step_and_cycle.md`). -/

namespace Sys2Proof.Machine

/-! ### The step by the place in the cycle and the head of the schedule -/

theorem step_of_slot {s : State} {k : Nat} (h : s.slotsLeft = some k) : step s = runSlot k s := by
  simp [step, stepMachine, h]

theorem step_of_cadence {s : State} (h : s.slotsLeft = none) (hi : s.inputs = []) : step s = beginCycle s := by
  simp [step, stepMachine, nextEvent, h, hi]

theorem step_of_event {s : State} {e : HostEvent} {es : List HostEvent} (h : s.slotsLeft = none)
    (hi : s.inputs = e :: es) : step s = deliver e (s.setInputs es) := by
  simp [step, stepMachine, nextEvent, h, hi]

theorem runSlot_zero (s : State) : runSlot 0 s = .next s.endCycle := rfl

theorem runSlot_succ {s t : State} (k : Nat) (h : slot s = .next t) : runSlot (k + 1) s = .next (t.afterSlot k) := by
  rw [runSlot, h, andThen_next]

theorem beginCycle_faulted {s : State} (h : s.fault ≠ none) : beginCycle s = .next s :=
  if_pos (Option.isSome_iff_ne_none.2 h)

theorem beginCycle_unfaulted {s : State} (h : s.fault = none) : beginCycle s = runSlot s.params.ipt s := by
  simp [beginCycle, h]

theorem slot_running {s : State} (hf : s.fault = none) (hr : s.runState = .running) : slot s = stepInstr s := by
  simp [slot, hf, hr]

/-! ### Every step answers next -/

theorem stepInstr_next (s : State) : ∃ t, stepInstr s = .next t := by
  rcases stepInstr_cases s with ⟨-, h⟩ | ⟨-, -, -, h⟩ | ⟨-, i, -, h⟩
  · exact ⟨_, h⟩
  · exact ⟨_, h⟩
  · rw [h]
    exact exec_next i s.advance

theorem slot_next (s : State) : ∃ t, slot s = .next t := by
  by_cases hf : s.fault = none
  · cases hr : s.runState with
    | running =>
      rw [slot_running hf hr]
      exact stepInstr_next s
    | waitingForKey r => exact ⟨s, slot_waiting hr⟩
  · exact ⟨s, slot_faulted (Option.isSome_iff_ne_none.2 hf)⟩

theorem runSlot_next (k : Nat) (s : State) : ∃ t, runSlot k s = .next t := by
  cases k with
  | zero => exact ⟨_, runSlot_zero s⟩
  | succ k =>
    obtain ⟨t, ht⟩ := slot_next s
    exact ⟨_, runSlot_succ k ht⟩

theorem beginCycle_next (s : State) : ∃ t, beginCycle s = .next t := by
  by_cases hf : s.fault = none
  · rw [beginCycle_unfaulted hf]
    exact runSlot_next _ s
  · exact ⟨s, beginCycle_faulted hf⟩

theorem deliver_next (e : HostEvent) (s : State) : ∃ t, deliver e s = .next t := by
  cases e with
  | cycle => exact beginCycle_next s
  | reset | keyDown | keyUp | snapshot => exact ⟨_, rfl⟩

theorem step_next (s : State) : ∃ t, step s = .next t := by
  cases hs : s.slotsLeft with
  | some k =>
    rw [step_of_slot hs]
    exact runSlot_next k s
  | none =>
    cases hi : s.inputs with
    | nil =>
      rw [step_of_cadence hs hi]
      exact beginCycle_next s
    | cons e es =>
      rw [step_of_event hs hi]
      exact deliver_next e _

/-- Settles O21, instruction by instruction and event by event. -/
theorem everyInstructionAndStepAnswersNext : Obligations.EveryInstructionAndStepAnswersNext := ⟨exec_next, step_next⟩

/-! ### What a slot can do -/

/-- A slot is idle, or it runs the instruction step of a running machine (rule R130). -/
theorem slot_cases {s t : State} (h : slot s = .next t) :
    t = s ∨ (s.fault = none ∧ s.runState = .running ∧ stepInstr s = .next t) := by
  by_cases hf : s.fault = none
  · cases hr : s.runState with
    | running => exact .inr ⟨hf, rfl, (slot_running hf hr).symm.trans h⟩
    | waitingForKey r => exact .inl (Host.Outcome.next.inj ((slot_waiting hr).symm.trans h)).symm
  · exact .inl (Host.Outcome.next.inj ((slot_faulted (Option.isSome_iff_ne_none.2 hf)).symm.trans h)).symm

/-- A cycle with no slot left ends; otherwise its next slot runs. -/
theorem runSlot_cases {k : Nat} {s t : State} (h : runSlot k s = .next t) :
    (k = 0 ∧ t = s.endCycle) ∨ ∃ j u, k = j + 1 ∧ slot s = .next u ∧ t = u.afterSlot j := by
  cases k with
  | zero => exact .inl ⟨rfl, (Host.Outcome.next.inj h).symm⟩
  | succ j =>
    obtain ⟨u, hu⟩ := slot_next s
    rw [runSlot_succ j hu] at h
    exact .inr ⟨j, u, rfl, hu, (Host.Outcome.next.inj h).symm⟩

/-- The end of a cycle: with the tick only for a machine that is running and not faulted (rule R130). -/
theorem State.endCycle_cases (s : State) :
    s.endCycle = s.setSlots none ∨ (s.fault = none ∧ s.runState = .running ∧ s.endCycle = s.tick.setSlots none) := by
  by_cases hf : s.fault = none
  · cases hr : s.runState with
    | running => exact .inr ⟨hf, rfl, endCycle_running hf hr⟩
    | waitingForKey r => exact .inl (endCycle_waiting hr)
  · exact .inl (endCycle_faulted (Option.isSome_iff_ne_none.2 hf))

/-- After a slot the cycle goes on with the slots to come, or it is over (rule R130). -/
theorem State.afterSlot_cases (s : State) (k : Nat) :
    (s.fault = none ∧ 0 < k ∧ s.afterSlot k = s.setSlots (some k)) ∨ s.afterSlot k = s.setSlots none ∨
      (s.fault = none ∧ s.afterSlot k = s.tick.setSlots none) := by
  by_cases hf : s.fault = none
  · have hf' : ¬s.fault.isSome = true := by simp [hf]
    cases k with
    | zero =>
      rw [afterSlot_last hf']
      rcases s.endCycle_cases with h | ⟨-, -, h⟩
      · exact .inr (.inl h)
      · exact .inr (.inr ⟨hf, h⟩)
    | succ k => exact .inl ⟨hf, k.succ_pos, afterSlot_more hf' k⟩
  · exact .inr (.inl (afterSlot_faulted (Option.isSome_iff_ne_none.2 hf) k))

theorem runSlot_faulted {s : State} (h : s.fault ≠ none) (k : Nat) : runSlot k s = .next (s.setSlots none) := by
  have hsome : s.fault.isSome = true := Option.isSome_iff_ne_none.2 h
  cases k with
  | zero => rw [runSlot_zero, endCycle_faulted hsome]
  | succ k => rw [runSlot_succ k (slot_faulted hsome), afterSlot_faulted hsome]

/-- A slot of a waiting machine moves the slot count alone (rule R130, decision D17). -/
theorem runSlot_waiting {s : State} {r : Nibble} (h : s.runState = .waitingForKey r) (k : Nat) :
    ∃ n, runSlot k s = .next (s.setSlots n) := by
  by_cases hf : s.fault = none
  · match k with
    | 0 => exact ⟨none, by rw [runSlot_zero, endCycle_waiting h]⟩
    | 1 => exact ⟨none, by rw [runSlot_succ 0 (slot_waiting h), afterSlot_last (by simp [hf]), endCycle_waiting h]⟩
    | k + 2 => exact ⟨_, by rw [runSlot_succ (k + 1) (slot_waiting h), afterSlot_more (by simp [hf])]⟩
  · exact ⟨none, runSlot_faulted hf k⟩

/-! ### Key events -/

theorem State.keyDown_faulted {s : State} (h : s.fault ≠ none) (c : Nibble) : s.keyDown c = s :=
  if_pos (by simp [Option.isSome_iff_ne_none.2 h])

theorem State.keyDown_pressed {s : State} {c : Nibble} (h : s.readKey c = true) : s.keyDown c = s :=
  if_pos (by simp [h])

/-- A down-edge marks the key and captures it (rule R133). -/
theorem State.keyDown_of_edge {s : State} {c : Nibble} (hf : s.fault = none) (hk : s.readKey c = false) :
    s.keyDown c = (s.setKey c true).capture c :=
  if_neg (by simp [hf, hk])

theorem State.capture_running {s : State} (h : s.runState = .running) (c : Nibble) : s.capture c = s := by
  simp [State.capture, h]

theorem State.capture_waiting {s : State} {r : Nibble} (h : s.runState = .waitingForKey r) (c : Nibble) :
    s.capture c = (s.setV r (c.setWidth 8)).setRun .running := by
  simp [State.capture, h]

theorem State.keyUp_faulted {s : State} (h : s.fault ≠ none) (c : Nibble) : s.keyUp c = s :=
  if_pos (Option.isSome_iff_ne_none.2 h)

theorem State.keyUp_unfaulted {s : State} (h : s.fault = none) (c : Nibble) : s.keyUp c = s.setKey c false :=
  if_neg (by simp [h])

theorem State.keyUp_keeps (s : State) (c : Nibble) : KeepsAllBut [.keypad] s (s.keyUp c) := by
  by_cases h : s.fault = none
  · rw [State.keyUp_unfaulted h]
    exact s.setKey_keeps c false
  · rw [State.keyUp_faulted h]
    exact .refl _ s

theorem State.setKey_readKey_same (s : State) (c : Nibble) (b : Bool) : (s.setKey c b).readKey c = b := by
  rw [State.readKey_setKey, if_pos rfl]

theorem State.setKey_readKey_other (s : State) {c k : Nibble} (h : k ≠ c) (b : Bool) :
    (s.setKey c b).readKey k = s.readKey k := by
  rw [State.readKey_setKey, if_neg h]

/-- A press on a running machine's up key, and on a waiting machine's (rule R133). -/
theorem State.keyDown_running {s : State} {c : Nibble} (hf : s.fault = none) (hk : s.readKey c = false)
    (hr : s.runState = .running) : s.keyDown c = s.setKey c true := by
  rw [State.keyDown_of_edge hf hk, State.capture_running (by simpa using hr)]

theorem State.keyDown_waiting {s : State} {c r : Nibble} (hf : s.fault = none) (hk : s.readKey c = false)
    (hr : s.runState = .waitingForKey r) :
    s.keyDown c = ((s.setKey c true).setV r (c.setWidth 8)).setRun .running := by
  rw [State.keyDown_of_edge hf hk, State.capture_waiting (by simpa using hr)]

/-! ### What a step can do -/

/-- What a step can do, by the place in the cycle and the event it finds: `es` is what is scheduled after the step. -/
inductive StepCase (s : State) : State → Prop
  /-- The next slot of the cycle in progress. -/
  | slot {k : Nat} {t : State} : s.slotsLeft = some k → runSlot k s = .next t → StepCase s t
  /-- The first slot of a cycle, scheduled or by the cadence. -/
  | cycle {es : List HostEvent} {t : State} : s.slotsLeft = none → s.fault = none →
      runSlot s.params.ipt (s.setInputs es) = .next t → StepCase s t
  /-- An event without effect: a cycle in a faulted machine, a snapshot, a rejected reset. -/
  | idle (es : List HostEvent) : s.slotsLeft = none → StepCase s (s.setInputs es)
  /-- A key press. -/
  | keyDown (es : List HostEvent) {c : Nibble} : Delivers s (.keyDown c) → StepCase s ((s.setInputs es).keyDown c)
  /-- A key release. -/
  | keyUp (es : List HostEvent) {c : Nibble} : Delivers s (.keyUp c) → StepCase s ((s.setInputs es).keyUp c)
  /-- A reset that is accepted. -/
  | reset {es : List HostEvent} {p : Params} {rom : List Byte} {t : State} : Delivers s (.reset p rom) →
      resetCall p rom (s.setInputs es) = .next t → StepCase s t

theorem beginCycle_stepCase {s t : State} {es : List HostEvent} (hs : s.slotsLeft = none)
    (h : beginCycle (s.setInputs es) = .next t) : StepCase s t := by
  by_cases hf : s.fault = none
  · rw [beginCycle_unfaulted (show (s.setInputs es).fault = none from hf)] at h
    exact .cycle hs hf h
  · rw [beginCycle_faulted (show (s.setInputs es).fault ≠ none from hf)] at h
    cases h
    exact .idle es hs

theorem deliver_stepCase {s t : State} {e : HostEvent} {es : List HostEvent} (hs : s.slotsLeft = none)
    (hi : s.inputs = e :: es) (h : deliver e (s.setInputs es) = .next t) : StepCase s t := by
  have hd : Delivers s e := ⟨hs, es, hi⟩
  cases e with
  | cycle => exact beginCycle_stepCase hs h
  | keyDown c =>
    cases h
    exact .keyDown es hd
  | keyUp c =>
    cases h
    exact .keyUp es hd
  | snapshot =>
    cases h
    exact .idle es hs
  | reset p rom =>
    have ht : stateAfter (s.setInputs es) (resetCall p rom (s.setInputs es)) = t := Host.Outcome.next.inj h
    subst ht
    cases hr : resetCall p rom (s.setInputs es) with
    | next u => exact .reset hd hr
    | fault r => exact .idle es hs
    | refused r => exact .idle es hs

theorem step_cases {s t : State} (h : step s = .next t) : StepCase s t := by
  cases hs : s.slotsLeft with
  | some k => exact .slot hs (by rwa [step_of_slot hs] at h)
  | none =>
    cases hi : s.inputs with
    | nil =>
      rw [step_of_cadence hs hi] at h
      exact beginCycle_stepCase (es := s.inputs) hs h
    | cons e es =>
      rw [step_of_event hs hi] at h
      exact deliver_stepCase hs hi h

/-! ### Frozen machines -/

/-- Settles O10: of the cases of a step, only a reset does more in a faulted machine than move the schedule. -/
theorem faultedMachineIsFrozen : Obligations.FaultedMachineIsFrozen := by
  intro s hf hreset
  obtain ⟨t, ht⟩ := step_next s
  refine ⟨t, ht, ?_⟩
  cases step_cases ht with
  | slot _ h =>
    rw [runSlot_faulted hf] at h
    cases h
    exact s.setSlots_keeps none
  | cycle _ hclear => exact absurd hclear hf
  | idle es => exact s.setInputs_keeps es
  | keyDown es =>
    rw [State.keyDown_faulted (by simpa using hf)]
    exact s.setInputs_keeps es
  | keyUp es =>
    rw [State.keyUp_faulted (by simpa using hf)]
    exact s.setInputs_keeps es
  | reset hd => exact absurd hd (hreset _ _)

/-- Settles O11: slots and cycles move the slot count alone, and of the events but a press and a reset only a release
has an effect, on the keypad. -/
theorem waitingMachineIsFrozen : Obligations.WaitingMachineIsFrozen := by
  intro s r hr hreset hpress
  obtain ⟨t, ht⟩ := step_next s
  suffices h : KeepsAllBut [.schedule] s t ∨
      ((∃ c, Delivers s (.keyUp c)) ∧ KeepsAllBut [.schedule, .keypad] s t) by
    rcases h with h | ⟨⟨c, hc⟩, h⟩
    · exact ⟨t, ht, h.mono (by simp), fun _ => h⟩
    · exact ⟨t, ht, h, fun hup => absurd hc (hup c)⟩
  cases step_cases ht with
  | slot _ h =>
    obtain ⟨n, hn⟩ := runSlot_waiting hr _
    cases hn.symm.trans h
    exact .inl (s.setSlots_keeps n)
  | @cycle es _ _ _ h =>
    obtain ⟨n, hn⟩ := runSlot_waiting (s := s.setInputs es) (by simpa using hr) s.params.ipt
    cases hn.symm.trans h
    exact .inl ((s.setInputs_keeps es).trans ((s.setInputs es).setSlots_keeps n))
  | idle es => exact .inl (s.setInputs_keeps es)
  | keyDown es hd => exact absurd hd (hpress _)
  | keyUp es hd =>
    exact .inr ⟨⟨_, hd⟩, (s.setInputs_keeps es).trans_of_subset (State.keyUp_keeps _ _) (by simp) (by simp)⟩
  | reset hd => exact absurd hd (hreset _ _)

/-! ### The tick -/

theorem countDown_toNat (b : Byte) : (countDown b).toNat = b.toNat - 1 := by
  unfold countDown
  split
  case isTrue h => simp [h]
  case isFalse h =>
    have hb := b.isLt
    have hne : b.toNat ≠ 0 := fun h0 => h (BitVec.eq_of_toNat_eq h0)
    rw [BitVec.toNat_sub]
    simp only [BitVec.toNat_ofNat]
    omega

theorem State.soundActive_iff (s : State) : s.soundActive = true ↔ s.st.toNat ≠ 0 := by
  simp [State.soundActive, ← BitVec.toNat_inj]

theorem State.setSlots_self {s : State} {k : Option Nat} (h : s.slotsLeft = k) : s.setSlots k = s := by
  subst h
  rfl

/-- The machine that a cycle of no slots finds, by the cadence or scheduled. -/
theorem step_of_slotless {s t : State} (hs : s.slotsLeft = none) (hipt : s.params.ipt = 0) (hf : s.fault = none)
    (ht : s.inputs = [] ∧ t = s ∨ ∃ es, s.inputs = .cycle :: es ∧ t = s.setInputs es) :
    step s = .next t.endCycle := by
  rcases ht with ⟨hi, rfl⟩ | ⟨es, hi, rfl⟩
  · rw [step_of_cadence hs hi, beginCycle_unfaulted hf, hipt, runSlot_zero]
  · rw [step_of_event hs hi, deliver, beginCycle_unfaulted (by simpa using hf), State.setInputs_params, hipt,
      runSlot_zero]

/-- A slot that is the last of its cycle is followed by the end of the cycle. -/
theorem step_of_last_slot {s t : State} (hs : s.slotsLeft = some 1) (h : slot s = .next t) :
    step s = .next t.endCycle := by
  rw [step_of_slot hs, runSlot_succ 0 h]
  by_cases hf : t.fault = none
  · rw [afterSlot_last (by simp [hf])]
  · have hsome := Option.isSome_iff_ne_none.2 hf
    rw [afterSlot_faulted hsome, endCycle_faulted hsome]

theorem State.endCycle_not_running {s : State} (h : s.fault ≠ none ∨ s.runState ≠ .running) :
    s.endCycle = s.setSlots none := by
  rcases s.endCycle_cases with h' | ⟨hf, hr, -⟩
  · exact h'
  · exact absurd h (by simp [hf, hr])

/-- Settles O12, from the two ends of a cycle: with a tick for a machine left running, without one for any other. -/
theorem tickCountsBothTimersDown : Obligations.TickCountsBothTimersDown := by
  refine ⟨fun s => ?values, fun s t hs h hf hr => ?ticks, fun s t hs h hend => ?noTick, fun s t k hs h => ?earlier,
    fun s t hs hipt hf ht => ?slotless⟩
  case values =>
    refine ⟨countDown_toNat s.dt, countDown_toNat s.st, ?_, s.tick_keeps⟩
    rw [State.soundActive_iff, State.tick_st, countDown_toNat]
    omega
  case ticks => rw [step_of_last_slot hs h, endCycle_running hf hr]
  case noTick => rw [step_of_last_slot hs h, State.endCycle_not_running hend]
  case earlier =>
    rw [step_of_slot hs, runSlot_succ (k + 1) h]
    refine ⟨_, rfl, ?_⟩
    by_cases hf : t.fault = none
    · rw [afterSlot_more (by simp [hf])]
      exact ⟨rfl, rfl⟩
    · rw [afterSlot_faulted (Option.isSome_iff_ne_none.2 hf)]
      exact ⟨rfl, rfl⟩
  case slotless =>
    have hsame : t.fault = s.fault ∧ t.runState = s.runState ∧ t.slotsLeft = s.slotsLeft := by
      rcases ht with ⟨-, rfl⟩ | ⟨es, -, rfl⟩ <;> exact ⟨rfl, rfl, rfl⟩
    obtain ⟨htf, htr, hts⟩ := hsame
    rw [step_of_slotless hs hipt hf ht]
    refine ⟨fun hr => ?_, fun hr => ?_⟩
    · rw [endCycle_running (htf.trans hf) (htr.trans hr)]
    · rw [State.endCycle_not_running (.inr (htr ▸ hr)), State.setSlots_self (hts.trans hs)]

/-! ### The slots of a cycle one by one -/

theorem runSteps_succ (n : Nat) (s : State) : runSteps (n + 1) s = andThen (step s) (runSteps n) := rfl

theorem slots_succ {s t : State} (k : Nat) (hf : s.fault = none) (h : slot s = .next t) :
    slots (k + 1) s = slots k t := by
  simp [slots, hf, h]

theorem slots_next (k : Nat) (s : State) : ∃ t, slots k s = .next t := by
  induction k generalizing s with
  | zero => exact ⟨s, rfl⟩
  | succ k ih =>
    by_cases hf : s.fault = none
    · obtain ⟨t, ht⟩ := slot_next s
      rw [slots_succ k hf ht]
      exact ih t
    · exact ⟨s, slots_faulted _ (Option.isSome_iff_ne_none.2 hf)⟩

/-- The slots of the whole event do not see the slot count that stepping keeps. -/
theorem slots_setSlots_endCycle (k : Nat) (s : State) (n : Option Nat) :
    andThen (slots k (s.setSlots n)) (fun u => .next u.endCycle) = andThen (slots k s) fun u => .next u.endCycle := by
  obtain ⟨u, hu⟩ := slots_next k s
  rw [slots_setSlots, hu]
  simp [endCycle_setSlots]

/-- The first slot of `k + 1`, and at most `k` steps after it, are the slots of the event and its end. -/
theorem runSlot_then_runSteps (k : Nat) (s : State) (hf : s.fault = none) :
    ∃ n ≤ k, andThen (runSlot (k + 1) s) (runSteps n) = andThen (slots (k + 1) s) fun u => .next u.endCycle := by
  induction k generalizing s with
  | zero =>
    obtain ⟨t, ht⟩ := slot_next s
    refine ⟨0, le_rfl, ?_⟩
    rw [runSlot_succ 0 ht, slots_succ 0 hf ht]
    by_cases htf : t.fault = none
    · rw [afterSlot_last (by simp [htf])]
      rfl
    · have hsome := Option.isSome_iff_ne_none.2 htf
      rw [afterSlot_faulted hsome, slots_faulted 0 hsome, andThen_next, andThen_next, endCycle_faulted hsome]
      rfl
  | succ k ih =>
    obtain ⟨t, ht⟩ := slot_next s
    rw [runSlot_succ (k + 1) ht, slots_succ (k + 1) hf ht]
    by_cases htf : t.fault = none
    · obtain ⟨n, hn, hrun⟩ := ih (t.setSlots (some (k + 1))) (by simpa using htf)
      refine ⟨n + 1, Nat.succ_le_succ hn, ?_⟩
      rw [afterSlot_more (by simp [htf]), andThen_next, runSteps_succ, step_of_slot (t.setSlots_slotsLeft _), hrun,
        slots_setSlots_endCycle]
    · have hsome := Option.isSome_iff_ne_none.2 htf
      refine ⟨0, Nat.zero_le _, ?_⟩
      rw [afterSlot_faulted hsome, slots_faulted _ hsome, andThen_next, andThen_next, endCycle_faulted hsome]
      rfl

theorem cycle_faulted {s : State} (h : s.fault ≠ none) : cycle s = .next s := if_pos (Option.isSome_iff_ne_none.2 h)

theorem cycle_unfaulted {s : State} (h : s.fault = none) :
    cycle s = andThen (slots s.params.ipt s) fun u => .next u.endCycle := if_neg (by simp [h])

/-- A step that begins a cycle, and the steps after it, are the event. -/
theorem beginCycle_then_runSteps (s : State) :
    ∃ n, n + 1 ≤ max 1 s.params.ipt ∧ andThen (beginCycle s) (runSteps n) = cycle s := by
  by_cases hf : s.fault = none
  · rw [beginCycle_unfaulted hf, cycle_unfaulted hf]
    cases s.params.ipt with
    | zero => exact ⟨0, le_max_left _ _, rfl⟩
    | succ k =>
      obtain ⟨n, hn, hrun⟩ := runSlot_then_runSteps k s hf
      exact ⟨n, le_max_of_le_right (Nat.succ_le_succ hn), hrun⟩
  · rw [beginCycle_faulted hf, cycle_faulted hf]
    exact ⟨0, le_max_left _ _, rfl⟩

/-- Settles O13, by induction on the slots of the cycle. -/
theorem stepsOfACycleAreTheCycleEvent : Obligations.StepsOfACycleAreTheCycleEvent := by
  intro s hs
  refine ⟨fun hi => ?cadence, fun es hi => ?scheduled⟩
  case cadence =>
    obtain ⟨n, hn, hrun⟩ := beginCycle_then_runSteps s
    exact ⟨n + 1, Nat.le_add_left 1 n, hn, by rw [runSteps_succ, step_of_cadence hs hi, hrun]⟩
  case scheduled =>
    obtain ⟨n, hn, hrun⟩ := beginCycle_then_runSteps (s.setInputs es)
    exact ⟨n + 1, Nat.le_add_left 1 n, hn, by rw [runSteps_succ, step_of_event hs hi, deliver, hrun]⟩

end Sys2Proof.Machine
end

section
/-! PROOFS. The host's events: key presses and releases, the snapshot, the reset and the rejections at the boundary
(`40_step_and_cycle.md` sections 4 and 5, `60_exceptions.md` section 3, `70_reset_and_hazards.md` section 1). -/

namespace Sys2Proof.Machine

/-! ### Keys -/

theorem State.keyDown_waiting_keeps (s : State) (c r : Nibble) (b : Byte) :
    KeepsAllBut [.keypad, .registers, .runState] s (((s.setKey c true).setV r b).setRun .running) :=
  ((s.setKey_keeps c true).trans_of_subset ((s.setKey c true).setV_keeps r b) (by simp) (by simp)).trans_of_subset
    (State.setRun_keeps _ .running) (List.Subset.refl _) (by simp)

theorem State.keyDown_keeps (s : State) (c : Nibble) :
    KeepsAllBut [.keypad, .registers, .runState] s (s.keyDown c) := by
  by_cases hf : s.fault = none
  · cases hk : s.readKey c with
    | true =>
      rw [State.keyDown_pressed hk]
      exact .refl _ s
    | false =>
      cases hr : s.runState with
      | running =>
        rw [State.keyDown_running hf hk hr]
        exact (s.setKey_keeps c true).mono (by simp)
      | waitingForKey r =>
        rw [State.keyDown_waiting hf hk hr]
        exact s.keyDown_waiting_keeps c r _
  · rw [State.keyDown_faulted hf]
    exact .refl _ s

/-- Settles O14: the press of an up key on an unfaulted machine is one write of the keypad, and on a waiting one also of
the target register and the wait latch (rule R133). -/
theorem keyPressResolvesAWaitOnADownEdge : Obligations.KeyPressResolvesAWaitOnADownEdge := by
  intro s code
  refine ⟨fun hf hk => ?downEdge, State.keyDown_pressed, fun hf => State.keyDown_faulted hf code,
    fun es hs hi => step_of_event hs hi⟩
  case downEdge =>
    cases hr : s.runState with
    | running =>
      rw [State.keyDown_running hf hk hr]
      exact ⟨s.setKey_readKey_same code true, fun c hc => s.setKey_readKey_other hc true, hr,
        fun _ => s.setKey_keeps code true, nofun⟩
    | waitingForKey r =>
      rw [State.keyDown_waiting hf hk hr]
      refine ⟨s.setKey_readKey_same code true, fun c hc => s.setKey_readKey_other hc true, rfl, nofun, ?_⟩
      rintro _ ⟨rfl⟩
      refine ⟨?_, fun q hq => ?_, s.keyDown_waiting_keeps code r _⟩
      · rw [State.setRun_readV, State.readV_setV_same, BitVec.toNat_setWidth_of_le (by decide)]
      · exact (s.setKey code true).setV_keepsRegs r _ q hq

/-- Settles O15: a release is one write of the keypad, on an unfaulted machine alone (rule R134). -/
theorem keyReleaseResolvesNoWait : Obligations.KeyReleaseResolvesNoWait := by
  intro s code
  refine ⟨fun hf => ?release, fun hf => State.keyUp_faulted hf code, fun es hs hi => step_of_event hs hi⟩
  case release =>
    refine ⟨?_, fun c hc => ?_, s.keyUp_keeps code⟩
    · rw [State.keyUp_unfaulted hf, State.setKey_readKey_same]
    · rw [State.keyUp_unfaulted hf, State.setKey_readKey_other s hc]

/-! ### The snapshot -/

theorem Display.cell_row_col (d : Display) (row : Fin 32) (col : Fin 64) :
    Display.cell d (row.val * 64 + col.val) = (d[row]).getLsbD col.val := by
  have hrow : (row.val * 64 + col.val) / 64 = row.val := by omega
  have hcol : (row.val * 64 + col.val) % 64 = col.val := by omega
  simp [Display.cell, hrow, hcol]

/-- Settles O16: cell `row * 64 + col` of the list is bit `col` of the row (rules R28, R136). -/
theorem snapshotShowsTheDisplayRowByRow : Obligations.SnapshotShowsTheDisplayRowByRow := by
  intro s
  refine ⟨by simp [State.snapshot], fun row col => ?_,
    fun es hs hi => ⟨step_of_event hs hi, s.setInputs_keeps es⟩⟩
  have hlt : row.val * 64 + col.val < 2048 := by omega
  rw [State.snapshot, List.getElem?_map, List.getElem?_range hlt, Option.map_some, Display.cell_row_col]

/-! ### The reset -/

theorem romFits_iff (rom : List Byte) : romFits rom = true ↔ rom.length ≤ 3584 := decide_eq_true_iff

/-- What an accepted reset answers: the state of rule R38, with the host's schedule and random source. -/
theorem resetCall_of_fits (p : Params) {rom : List Byte} (s : State) (h : rom.length ≤ 3584) :
    resetCall p rom s =
      .next { State.afterReset p rom with inputs := s.inputs, randIn := s.randIn, draws := s.draws } :=
  if_pos ((romFits_iff rom).2 h)

theorem resetCall_of_too_long (p : Params) {rom : List Byte} (s : State) (h : 3584 < rom.length) :
    resetCall p rom s = .fault (.programTooLarge rom.length) :=
  if_neg (by rw [romFits_iff]; omega)

theorem Memory.byte_empty (a : Nat) : (Memory.mk []).byte a = Memory.unlisted a := rfl

theorem Memory.unlisted_of_le {a : Nat} (h : 80 ≤ a) : Memory.unlisted a = 0#8 := dif_neg (by omega)

/-- After a reset the font stands at 0x000 (rule R301). -/
theorem Memory.byte_image_font (font : Vector Byte 80) (rom : List Byte) (a : Fin 80) :
    (Memory.image font rom).byte a.val = font[a] := by
  have hlen : font.toList.length = 80 := by simp
  have ha : a.val < font.toList.length := by omega
  have hin := Memory.byte_writeBytes_inside Memory.wf_empty (a := 0) ha (by omega)
  rw [Nat.zero_add] at hin
  rw [Memory.image, Memory.byte_writeBytes_outside _ (.inl (by simp only [Config.progBase]; omega)), hin]
  simp

/-- After a reset the image stands at 0x200 (rule R301). -/
theorem Memory.byte_image_rom (font : Vector Byte 80) {rom : List Byte} (h : rom.length ≤ 3584) (k : Fin rom.length) :
    (Memory.image font rom).byte (0x200 + k.val) = rom[k] :=
  Memory.byte_writeBytes_inside (Memory.wf_writeBytes Memory.wf_empty _ _) k.isLt
    (by simp only [Config.progBase]; omega)

/-- After a reset the rest of memory is zero (rule R301, decision D2). -/
theorem Memory.byte_image_zero (font : Vector Byte 80) (rom : List Byte) {a : Nat} (ha : 0x50 ≤ a)
    (hrom : a < 0x200 ∨ 0x200 + rom.length ≤ a) : (Memory.image font rom).byte a = 0#8 := by
  have hlen : font.toList.length = 80 := by simp
  rw [Memory.image, Memory.byte_writeBytes_outside (a := Config.progBase) _ hrom,
    Memory.byte_writeBytes_outside _ (.inr (by omega)), Memory.byte_empty, Memory.unlisted_of_le ha]

/-- Settles O17: the bytes of the image memory, and the values of the reset state. -/
theorem resetBuildsTheResetState : Obligations.ResetBuildsTheResetState := by
  intro p rom s hlen
  refine ⟨fun es hs hi => ⟨_, resetCall_of_fits p _ hlen, ?delivered⟩, _, resetCall_of_fits p s hlen,
    Memory.byte_image_font p.font rom, Memory.byte_image_rom p.font hlen,
    fun a ha hlt => Memory.byte_image_zero p.font rom ha (.inl hlt),
    fun a ha _ => Memory.byte_image_zero p.font rom (by omega) (.inr ha), rfl, rfl, fun r => ?registers, rfl, rfl,
    fun k => ?stack, Display.cell_clear, fun c => ?keys, rfl, rfl, rfl, rfl, rfl, rfl, rfl, rfl⟩
  case delivered => rw [step_of_event hs hi, deliver, resetCall_of_fits p _ hlen, stateAfter]
  case registers => simp [State.readV, State.afterReset, State.reset]
  case stack => simp [State.afterReset, State.reset]
  case keys => simp [State.readKey, State.afterReset, State.reset]

/-! ### Rejections -/

theorem keyCodeFits_iff (code : Nat) : keyCodeFits code = true ↔ code ≤ 15 := by
  simp only [keyCodeFits, operandFits, decide_eq_true_eq]
  omega

/-- A code of 0-15 is its own 4-bit value. -/
theorem nibble_ofNat_of_le {code : Nat} (h : code ≤ 15) : BitVec.ofNat 4 code = ⟨⟨code, by omega⟩⟩ :=
  BitVec.eq_of_toNat_eq (Nat.mod_eq_of_lt (by omega))

/-- Settles O18: each wrapper's check, both ways (rules R268, R269, R303). -/
theorem rejectedEventsChangeNothing : Obligations.RejectedEventsChangeNothing := by
  refine ⟨fun p rom s hlen => ⟨resetCall_of_too_long p s hlen, fun es hs hi => ?scheduled⟩, fun code s hcode => ?wide,
    fun code s hcode => ?narrow, fun e he => ?neverReset⟩
  case scheduled => rw [step_of_event hs hi, deliver, resetCall_of_too_long p _ hlen, stateAfter]
  case wide =>
    have hno : ¬keyCodeFits code = true := by rw [keyCodeFits_iff]; omega
    exact ⟨if_neg hno, if_neg hno⟩
  case narrow =>
    have hyes : keyCodeFits code = true := (keyCodeFits_iff code).2 hcode
    rw [keyDownCall, keyUpCall, if_pos hyes, if_pos hyes, nibble_ofNat_of_le hcode]
    exact ⟨rfl, rfl⟩
  case neverReset =>
    cases e with
    | reset p rom => exact absurd rfl (he p rom)
    | cycle | keyDown | keyUp | snapshot => rfl

end Sys2Proof.Machine
end

section
/-! PROOFS. The step of an open slot, the stack pointer, and the invariant (`10_state.md` section 12,
`60_exceptions.md` section 2). -/

namespace Sys2Proof.Machine

/-! ### The step of an open slot -/

theorem stepInstr_of_decode {s : State} {i : Instr} (hpc : s.pc.toNat ≤ 0xFFE)
    (hd : decode (s.mem.fetch16 s.pc.toNat) = .ok i) : stepInstr s = exec i s.advance := by
  rw [stepInstr, if_neg (by omega), hd]

theorem stepInstr_of_outside {s : State} (hpc : 0xFFE < s.pc.toNat) :
    stepInstr s = .next (s.raise .fetchOutOfBounds none s.pc none) := by
  rw [stepInstr, if_pos hpc]

theorem stepInstr_of_unknown {s : State} {e : DecodeError} (hpc : s.pc.toNat ≤ 0xFFE)
    (hd : decode (s.mem.fetch16 s.pc.toNat) = .error e) :
    stepInstr s = .next (s.advance.raise .unknownInstruction (some (s.mem.fetch16 s.pc.toNat)) s.pc none) := by
  rw [stepInstr, if_neg (by omega), hd]

/-- The step of an open slot is the instruction step and what follows a slot (rule R130). -/
theorem step_of_slotOpen {s t : State} {k : Nat} (ho : SlotOpen k s) (h : stepInstr s = .next t) :
    step s = .next (t.afterSlot k) := by
  obtain ⟨hf, hr, hs⟩ := ho
  have hslot : slot s = .next t := (slot_running hf hr).trans h
  rcases hs with hs | ⟨hs, hi, hipt⟩
  · rw [step_of_slot hs, runSlot_succ k hslot]
  · rw [step_of_cadence hs hi, beginCycle_unfaulted hf, hipt, runSlot_succ k hslot]

/-- Two bytes that decode are the fetched word's. -/
theorem decode_fetch16_of_decodeBytes {m : Memory} {a : Nat} {i : Instr} {rest : List Byte}
    (h : decodeBytes [m.byte a, m.byte (a + 1)] = .ok (i, rest)) : decode (m.fetch16 a) = .ok i := by
  change (decode (m.fetch16 a)).map _ = _ at h
  cases hd : decode (m.fetch16 a) with
  | error e => simp [hd, Except.map] at h
  | ok j =>
    simp only [hd, Except.map, Except.ok.injEq, Prod.mk.injEq] at h
    rw [h.1]

/-- Settles O7: the open slot runs the fetched instruction, and the ends are those of `afterSlot` (rules R124, R130). -/
theorem stepRunsTheFetchedInstruction : Obligations.StepRunsTheFetchedInstruction := by
  intro s k i ho hpc hbytes _
  obtain ⟨t, ht⟩ := exec_next i s.advance
  have hstep : step s = .next (t.afterSlot k) :=
    step_of_slotOpen ho ((stepInstr_of_decode hpc (decode_fetch16_of_decodeBytes hbytes)).trans ht)
  refine ⟨t, _, ht, hstep, fun hf => ?faulted, fun hf hk => ?more, fun hf hk hr => ?ticks, fun hf hk hr => ?waits⟩
  case faulted => exact afterSlot_faulted (Option.isSome_iff_ne_none.2 hf) k
  case more =>
    obtain ⟨j, rfl⟩ := Nat.exists_eq_add_of_lt hk
    rw [Nat.zero_add, afterSlot_more (by simp [hf])]
  case ticks => rw [hk, afterSlot_last (by simp [hf]), endCycle_running hf hr]
  case waits => rw [hk, afterSlot_last (by simp [hf]), State.endCycle_not_running (.inr hr)]

theorem State.advance_keeps (s : State) : KeepsAllBut [.pc] s s.advance := s.setPc_keeps _

/-- Settles O8: the fetch check latches the record, and a faulted slot closes the cycle (rules R121, R130). -/
theorem fetchOutsideMemoryFaults : Obligations.FetchOutsideMemoryFaults := by
  intro s k ho hpc
  have hstep := step_of_slotOpen ho (stepInstr_of_outside hpc)
  rw [afterSlot_faulted rfl] at hstep
  exact ⟨_, hstep, rfl, rfl, rfl,
    (s.raise_keeps _ _ _ _).trans_of_subset (State.setSlots_keeps _ none) (by simp) (by simp)⟩

/-- Settles O9: the decoder's rejection latches the record on the advanced state (rules R122, R123, R264). -/
theorem unknownWordFaults : Obligations.UnknownWordFaults := by
  intro s k e ho hpc hd
  have hstep := step_of_slotOpen ho (stepInstr_of_unknown hpc hd)
  rw [afterSlot_faulted rfl] at hstep
  have hraise : KeepsAllBut [.fault, .pc] s
      (s.advance.raise .unknownInstruction (some (s.mem.fetch16 s.pc.toNat)) s.pc none) :=
    s.advance_keeps.trans_of_subset (s.advance.raise_keeps _ _ _ _) (by simp) (by simp)
  exact ⟨_, hstep, rfl, rfl, rfl, rfl, hraise.trans_of_subset (State.setSlots_keeps _ none) (by simp) (by simp)⟩

/-! ### The placed word -/

theorem State.fetchPlace_le (s : State) : s.fetchPlace.toNat ≤ 0xFFE := by
  unfold State.fetchPlace
  split
  case isTrue h => exact h
  case isFalse => decide

theorem State.openSlots_pos (s : State) : 0 < s.openSlots := by
  unfold State.openSlots
  split
  case h_1 => exact Nat.succ_pos _
  case h_2 | h_3 => exact le_max_left 1 _

theorem State.withWord_fetch16 {s : State} (hm : s.mem.wf) (w : Word) :
    (s.withWord w).mem.fetch16 s.fetchPlace.toNat = w :=
  Memory.fetch16_writeBytes hm s.fetchPlace_le w

theorem State.withWord_keeps (s : State) (w : Word) :
    KeepsAllBut [.memory, .pc, .fault, .runState, .schedule] s (s.withWord w) := by
  intro p hp
  cases p
  case memory | pc | fault | runState | schedule => simp at hp
  case stack | random => exact ⟨rfl, rfl⟩
  case registers | display | keypad => exact fun _ => rfl
  all_goals exact rfl

theorem decode_of_decodeTableWord {nbits w : Nat} {i : Instr} (h : decodeTableWord nbits w = some i) :
    decode (tableWord nbits w) = .ok i := by
  unfold decodeTableWord at h
  rw [decodeBytes_bytes] at h
  cases hd : decode (tableWord nbits w) with
  | error e => simp [hd, Except.map] at h
  | ok j => simpa [hd, Except.map] using h

/-- Settles O22: the state with the word placed has an open slot, and its fetch reads the word. -/
theorem placedWordIsRunByTheNextStep : Obligations.PlacedWordIsRunByTheNextStep := by
  intro s nbits w i hm hd
  have hfetch : (s.withFetchWord nbits w).mem.fetch16 s.fetchPlace.toNat = tableWord nbits w :=
    State.withWord_fetch16 hm _
  refine ⟨?runs, s.withWord_keeps _, fun b hb => Memory.byte_writeBytes_outside _ hb, hfetch, rfl,
    fun hpc => if_pos hpc, fun hpc => if_neg (by omega), rfl, rfl, rfl, rfl⟩
  case runs =>
    obtain ⟨k, hk⟩ := Nat.exists_eq_add_of_lt s.openSlots_pos
    rw [Nat.zero_add] at hk
    obtain ⟨t, ht⟩ := exec_next i (s.withFetchWord nbits w).advance
    refine ⟨k, t, hk, ht, step_of_slotOpen ⟨rfl, rfl, .inl (congrArg some hk)⟩ ?_⟩
    rw [stepInstr_of_decode s.fetchPlace_le (hfetch ▸ decode_of_decodeTableWord hd), ht]

/-! ### The stack pointer -/

/-- Only a call and a return move `sp`, by one (rules R151, R153). -/
theorem exec_sp {i : Instr} {s t : State} (h : exec i s = .next t) :
    t.sp.val = s.sp.val ∨ (t.sp.val = s.sp.val + 1 ∧ ∃ nnn, i = .call nnn) ∨
      (t.sp.val + 1 = s.sp.val ∧ i = .ret) := by
  rcases exec_cases h with ⟨c, n, -, rfl⟩ | ⟨hf, hkeeps, -, -⟩
  · exact .inl rfl
  · cases i
    case call nnn =>
      have hfree := lt_of_faultOf_call hf
      cases (exec_call_of_lt nnn hfree).symm.trans h
      exact .inr (.inl ⟨rfl, nnn, rfl⟩)
    case ret =>
      have hused := pos_of_faultOf_ret hf
      cases (exec_ret_of_pos hused).symm.trans h
      exact .inr (.inr ⟨Nat.sub_add_cancel hused, rfl⟩)
    all_goals exact .inl (congrArg Fin.val (hkeeps .stack (by simp [partsChanged, partsWritten])).1)

/-- What a step may do to `sp`: nothing, or what the instruction at `pc` does. -/
def SpMoves (s t : State) : Prop :=
  t.sp.val = s.sp.val ∨
  (t.sp.val = s.sp.val + 1 ∧ ∃ nnn, decode (s.mem.fetch16 s.pc.toNat) = .ok (.call nnn)) ∨
  (t.sp.val + 1 = s.sp.val ∧ decode (s.mem.fetch16 s.pc.toNat) = .ok .ret)

theorem stepInstr_spMoves {s t : State} (h : stepInstr s = .next t) : SpMoves s t := by
  rcases stepInstr_cases s with ⟨-, hs⟩ | ⟨-, e, -, hs⟩ | ⟨-, i, hd, hs⟩
  · cases hs.symm.trans h
    exact .inl rfl
  · cases hs.symm.trans h
    exact .inl rfl
  · rcases exec_sp (hs.symm.trans h) with h | ⟨hup, nnn, rfl⟩ | ⟨hdown, rfl⟩
    · exact .inl h
    · exact .inr (.inl ⟨hup, nnn, hd⟩)
    · exact .inr (.inr ⟨hdown, hd⟩)

theorem State.endCycle_sp (s : State) : s.endCycle.sp = s.sp := by
  rcases s.endCycle_cases with h | ⟨-, -, h⟩ <;> rw [h] <;> rfl

theorem State.afterSlot_sp (s : State) (k : Nat) : (s.afterSlot k).sp = s.sp := by
  rcases s.afterSlot_cases k with ⟨-, -, h⟩ | h | ⟨-, h⟩ <;> rw [h] <;> rfl

theorem runSlot_spMoves {k : Nat} {s t : State} (h : runSlot k s = .next t) : SpMoves s t := by
  rcases runSlot_cases h with ⟨-, rfl⟩ | ⟨j, u, -, hslot, rfl⟩
  · exact .inl (congrArg Fin.val s.endCycle_sp)
  · rw [SpMoves, State.afterSlot_sp]
    rcases slot_cases hslot with rfl | ⟨-, -, hstep⟩
    · exact .inl rfl
    · exact stepInstr_spMoves hstep

/-- Settles O25: slots move `sp` as the instruction at `pc` does, and no event but a reset moves it. -/
theorem stackPointerMovesByAtMostOne : Obligations.StackPointerMovesByAtMostOne := by
  intro s t hreset h
  change SpMoves s t
  cases step_cases h with
  | slot _ hrun => exact runSlot_spMoves hrun
  | @cycle es _ _ _ hrun => exact runSlot_spMoves (s := s.setInputs es) hrun
  | idle es => exact .inl rfl
  | keyDown es => exact .inl (congrArg Fin.val ((s.setInputs es).keyDown_keeps _ .stack (by simp)).1)
  | keyUp es => exact .inl (congrArg Fin.val ((s.setInputs es).keyUp_keeps _ .stack (by simp)).1)
  | reset hd => exact absurd hd (hreset _ _)

/-! ### What a body keeps of the invariant -/

/-- The stack part of the invariant: free slots are clear, and no return address exceeds 0x1000 (rules R26, R35). -/
def StackOk (stack : Vector Word 16) (sp : Fin 17) : Prop :=
  (∀ k : Fin 16, sp.val ≤ k.val → stack[k] = 0#16) ∧ ∀ k : Fin 16, (stack[k]).toNat ≤ 0x1000

theorem stackOk_push {s : State} (hst : StackOk s.stack s.sp) {w : Word} (hw : w.toNat ≤ 0x1000) (h : s.sp.val < 16) :
    StackOk (s.push w h).stack (s.push w h).sp := by
  obtain ⟨hfree, haddr⟩ := hst
  refine ⟨fun k hk => ?_, fun k => ?_⟩
  · rw [State.push_sp] at hk
    have hne : s.sp.val ≠ k.val := by omega
    simpa [Vector.getElem_set, hne] using hfree k (by omega)
  · by_cases hk : s.sp.val = k.val
    · simpa [Vector.getElem_set, hk] using hw
    · simpa [Vector.getElem_set, hk] using haddr k

theorem stackOk_pop {s : State} (hst : StackOk s.stack s.sp) (h : 0 < s.sp.val) :
    StackOk (s.pop h).stack (s.pop h).sp := by
  obtain ⟨hfree, haddr⟩ := hst
  refine ⟨fun k hk => ?_, fun k => ?_⟩
  · rw [State.pop_sp] at hk
    by_cases heq : s.sp.val - 1 = k.val
    · simp [heq]
    · simpa [Vector.getElem_set, heq] using hfree k (by omega)
  · by_cases heq : s.sp.val - 1 = k.val
    · simp [heq]
    · simpa [Vector.getElem_set, heq] using haddr k

/-- The popped address is a return address. -/
theorem State.top_le {s : State} (hst : StackOk s.stack s.sp) (h : 0 < s.sp.val) : (s.top h).toNat ≤ 0x1000 :=
  hst.2 ⟨s.sp.val - 1, by omega⟩

theorem exec_stackOk {i : Instr} {s t : State} (h : exec i s = .next t) (hpc : s.pc.toNat ≤ 0x1000)
    (hst : StackOk s.stack s.sp) : StackOk t.stack t.sp := by
  rcases exec_cases h with ⟨c, n, -, rfl⟩ | ⟨hf, hkeeps, -, -⟩
  · exact hst
  · cases i
    case call nnn =>
      have hfree := lt_of_faultOf_call hf
      cases (exec_call_of_lt nnn hfree).symm.trans h
      exact stackOk_push hst hpc hfree
    case ret =>
      have hused := pos_of_faultOf_ret hf
      cases (exec_ret_of_pos hused).symm.trans h
      exact stackOk_pop hst hused
    all_goals
      obtain ⟨hsp, hstack⟩ := hkeeps .stack (by simp [partsChanged, partsWritten])
      rw [hsp, hstack]
      exact hst

theorem skipTarget_le {pc : Word} (hpc : pc.toNat ≤ 0x1000) (c : Prop) [Decidable c] :
    (if c then pc + 2#16 else pc).toNat ≤ 0x10FE ∧ (if c then pc else pc + 2#16).toNat ≤ 0x10FE := by
  split <;> simp only [BitVec.toNat_add, BitVec.toNat_ofNat] <;> omega

theorem zextAddr_le (nnn : Addr12) : (zextAddr nnn).toNat ≤ 0x10FE := by
  have h := nnn.isLt
  rw [zextAddr_toNat]
  omega

theorem zextAddr_add_zextByte_toNat (nnn : Addr12) (b : Byte) :
    (zextAddr nnn + zextByte b).toNat = nnn.toNat + b.toNat := by
  have h := nnn.isLt
  have hb := b.isLt
  rw [BitVec.toNat_add, zextAddr_toNat, zextByte_toNat]
  omega

/-- From an advanced `pc` no instruction takes `pc` above 0x10FE (rule R25). -/
theorem exec_pc_le {i : Instr} {s t : State} (h : exec i s = .next t) (hpc : s.pc.toNat ≤ 0x1000)
    (hst : StackOk s.stack s.sp) : t.pc.toNat ≤ 0x10FE := by
  rcases exec_cases h with ⟨c, n, -, rfl⟩ | ⟨hf, hkeeps, -, -⟩
  · exact hpc.trans (by decide)
  · cases i
    case ret =>
      have hused := pos_of_faultOf_ret hf
      cases (exec_ret_of_pos hused).symm.trans h
      exact (State.top_le hst hused).trans (by decide)
    case call nnn =>
      cases (exec_call_of_lt nnn (lt_of_faultOf_call hf)).symm.trans h
      exact zextAddr_le nnn
    case jp nnn =>
      cases h
      exact zextAddr_le nnn
    case jpV0 nnn =>
      cases h
      have hn := nnn.isLt
      have hb := (s.readV 0).isLt
      rw [State.setPc_pc, zextAddr_add_zextByte_toNat]
      omega
    case seImm =>
      cases (exec_seImm _ _ s).symm.trans h
      exact (skipTarget_le hpc _).1
    case sneImm =>
      cases (exec_sneImm _ _ s).symm.trans h
      exact (skipTarget_le hpc _).2
    case seReg =>
      cases (exec_seReg _ _ s).symm.trans h
      exact (skipTarget_le hpc _).1
    case sneReg =>
      cases (exec_sneReg _ _ s).symm.trans h
      exact (skipTarget_le hpc _).2
    case skp =>
      cases (exec_skp_of_le (code_of_faultOf_skp hf)).symm.trans h
      exact (skipTarget_le hpc _).1
    case sknp =>
      cases (exec_sknp_of_le (code_of_faultOf_sknp hf)).symm.trans h
      exact (skipTarget_le hpc _).2
    all_goals
      rw [show t.pc = s.pc from hkeeps .pc (by simp [partsChanged, partsWritten])]
      exact hpc.trans (by decide)

/-- A body leaves memory as it is, or stores bytes. -/
theorem exec_mem_wf {i : Instr} {s t : State} (h : exec i s = .next t) (hm : s.mem.wf) : t.mem.wf := by
  rcases exec_cases h with ⟨c, n, -, rfl⟩ | ⟨-, -, -, hstores⟩
  · exact hm
  · exact hstores.wf hm

end Sys2Proof.Machine
end

section
/-! PROOFS. The invariant: it holds after reset, and every step keeps it (`10_state.md` section 12, `60_exceptions.md`
section 2). -/

namespace Sys2Proof.Machine

/-! ### Fault records explain the frozen state -/

/-- The record a body's check latches explains the state: the word is the fetched one, because no two words are one
instruction (rule R262). -/
theorem explains_raiseIn {s : State} {i : Instr} {c : Cause} {n : Option Nat} (hpc : s.pc.toNat ≤ 0xFFE)
    (hd : decode (s.mem.fetch16 s.pc.toNat) = .ok i) (hf : faultOf i s.advance = some (c, n)) :
    Explains (s.advance.raiseIn i c n) { cause := c, word := some (encode i), faultPc := s.pc, info := n } := by
  have hword := encode_of_decode hd
  cases i <;> simp only [faultOf, reduceCtorEq, Option.ite_none_left_eq_some, Option.ite_none_right_eq_some,
    Option.some.injEq, Prod.mk.injEq] at hf
  all_goals
    obtain ⟨hcheck, rfl, rfl⟩ := hf
    simp only [Explains, State.raiseIn_pc, State.advance_pc, State.raiseIn_mem, State.advance_mem, hd, hword, hpc,
      true_and]
  case ret | call => exact hcheck
  case skp | sknp => exact ⟨rfl, hcheck⟩
  case drw =>
    rw [State.spriteFits_iff] at hcheck
    exact ⟨rfl, Nat.pos_of_ne_zero fun h => hcheck (.inl h), not_le.1 fun h => hcheck (.inr h)⟩
  case ldB | ldMemVx | ldVxMem =>
    rw [State.spanFits_iff] at hcheck
    exact ⟨rfl, not_le.1 hcheck⟩

/-! ### The invariant without the cycle's clauses -/

/-- The clauses of the invariant that do not speak of the slot count. -/
structure State.Sound (s : State) : Prop where
  memoryCanonical : s.mem.wf
  stackOk : StackOk s.stack s.sp
  pcBounded : s.pc.toNat ≤ 0x10FE
  faultExplained : ∀ r, s.fault = some r → Explains s r

theorem State.Inv.sound {s : State} (h : s.Inv) : s.Sound :=
  ⟨h.memoryCanonical, ⟨h.freeSlotsClear, h.returnAddresses⟩, h.pcBounded, h.faultExplained⟩

theorem State.Sound.inv {s : State} (h : s.Sound) (hslots : ∀ k, s.slotsLeft = some k → 1 ≤ k ∧ k ≤ s.params.ipt)
    (hfault : s.fault ≠ none → s.slotsLeft = none) : s.Inv :=
  ⟨h.memoryCanonical, h.stackOk.1, h.stackOk.2, h.pcBounded, hslots, hfault, h.faultExplained⟩

/-- Between two cycles the clauses about the slot count say nothing. -/
theorem State.Sound.inv_of_no_slots {s : State} (h : s.Sound) (hs : s.slotsLeft = none) : s.Inv :=
  h.inv (fun k hk => absurd (hs.symm.trans hk) (by simp)) fun _ => hs

/-- An unfaulted machine between two cycles: nothing is latched, and no slot is open. -/
theorem State.Inv.of_unfaulted {s : State} (hf : s.fault = none) (hs : s.slotsLeft = none) (hm : s.mem.wf)
    (hst : StackOk s.stack s.sp) (hpc : s.pc.toNat ≤ 0x10FE) : s.Inv :=
  State.Sound.inv_of_no_slots ⟨hm, hst, hpc, fun r hr => absurd (hf.symm.trans hr) (by simp)⟩ hs

theorem State.Sound.setSlots {s : State} (h : s.Sound) (k : Option Nat) : (s.setSlots k).Sound :=
  ⟨h.memoryCanonical, h.stackOk, h.pcBounded, h.faultExplained⟩

theorem State.Sound.setInputs {s : State} (h : s.Sound) (es : List HostEvent) : (s.setInputs es).Sound :=
  ⟨h.memoryCanonical, h.stackOk, h.pcBounded, h.faultExplained⟩

theorem State.Sound.tick {s : State} (h : s.Sound) : s.tick.Sound :=
  ⟨h.memoryCanonical, h.stackOk, h.pcBounded, h.faultExplained⟩

theorem advance_pc_toNat {s : State} (hpc : s.pc.toNat ≤ 0xFFE) : s.advance.pc.toNat = s.pc.toNat + 2 := by
  rw [State.advance_pc, BitVec.toNat_add, BitVec.toNat_ofNat]
  omega

/-- The instruction step of an unfaulted machine keeps the clauses, and what it latches explains the state. -/
theorem stepInstr_sound {s t : State} (h : stepInstr s = .next t) (hs : s.Sound) (hf : s.fault = none) : t.Sound := by
  rcases stepInstr_cases s with ⟨hpc, hstep⟩ | ⟨hpc, e, hd, hstep⟩ | ⟨hpc, i, hd, hstep⟩
  · cases hstep.symm.trans h
    refine ⟨hs.memoryCanonical, hs.stackOk, hs.pcBounded, ?_⟩
    rintro _ ⟨rfl⟩
    exact ⟨rfl, rfl, rfl, hpc⟩
  · cases hstep.symm.trans h
    refine ⟨hs.memoryCanonical, hs.stackOk, ?_, ?_⟩
    · exact (advance_pc_toNat hpc).trans_le (by omega)
    · rintro _ ⟨rfl⟩
      simp [Explains, hd, hpc]
  · have hexec : exec i s.advance = .next t := hstep.symm.trans h
    have hadv : s.advance.pc.toNat ≤ 0x1000 := (advance_pc_toNat hpc).trans_le (by omega)
    refine ⟨exec_mem_wf hexec hs.memoryCanonical, exec_stackOk hexec hadv hs.stackOk,
      exec_pc_le hexec hadv hs.stackOk, fun r hr => ?_⟩
    rcases exec_cases hexec with ⟨c, n, hfault, rfl⟩ | ⟨-, hkeeps, -, -⟩
    · rw [State.raiseIn_advance_fault] at hr
      cases hr
      exact explains_raiseIn hpc hd hfault
    · have hsame : t.fault = s.fault := hkeeps .fault (by simp [partsChanged])
      exact absurd (hsame.symm.trans hr) (by simp [hf])

theorem slot_sound {s t : State} (h : slot s = .next t) (hs : s.Sound) : t.Sound := by
  rcases slot_cases h with rfl | ⟨hf, -, hstep⟩
  · exact hs
  · exact stepInstr_sound hstep hs hf

/-! ### The parameters and the cycle -/

theorem params_not_mem_partsWritten (i : Instr) : Part.params ∉ partsWritten i := by
  cases i <;> simp [partsWritten]

theorem stepInstr_params {s t : State} (h : stepInstr s = .next t) : t.params = s.params := by
  rcases stepInstr_cases s with ⟨-, hstep⟩ | ⟨-, e, -, hstep⟩ | ⟨-, i, -, hstep⟩
  · cases hstep.symm.trans h
    rfl
  · cases hstep.symm.trans h
    rfl
  · exact exec_keepsAllBut_partsWritten (hstep.symm.trans h) .params (params_not_mem_partsWritten i)

theorem slot_params {s t : State} (h : slot s = .next t) : t.params = s.params := by
  rcases slot_cases h with rfl | ⟨-, -, hstep⟩
  · rfl
  · exact stepInstr_params hstep

theorem endCycle_inv {s : State} (hs : s.Sound) : s.endCycle.Inv := by
  rcases s.endCycle_cases with h | ⟨-, -, h⟩
  · rw [h]
    exact (hs.setSlots none).inv_of_no_slots rfl
  · rw [h]
    exact (hs.tick.setSlots none).inv_of_no_slots rfl

theorem afterSlot_inv {s : State} {k : Nat} (hs : s.Sound) (hk : k ≤ s.params.ipt) : (s.afterSlot k).Inv := by
  rcases s.afterSlot_cases k with ⟨hf, hpos, h⟩ | h | ⟨-, h⟩
  · rw [h]
    refine (hs.setSlots (some k)).inv (fun j hj => ?_) fun hne => absurd hf hne
    cases hj
    exact ⟨hpos, hk⟩
  · rw [h]
    exact (hs.setSlots none).inv_of_no_slots rfl
  · rw [h]
    exact (hs.tick.setSlots none).inv_of_no_slots rfl

theorem runSlot_inv {s t : State} {k : Nat} (h : runSlot k s = .next t) (hs : s.Sound) (hk : k ≤ s.params.ipt) :
    t.Inv := by
  rcases runSlot_cases h with ⟨-, rfl⟩ | ⟨j, u, rfl, hslot, rfl⟩
  · exact endCycle_inv hs
  · refine afterSlot_inv (slot_sound hslot hs) ?_
    rw [slot_params hslot]
    omega

/-! ### The events -/

theorem keyUp_inv {s : State} (hs : s.Sound) (hslots : s.slotsLeft = none) (c : Nibble) : (s.keyUp c).Inv := by
  by_cases hf : s.fault = none
  · rw [State.keyUp_unfaulted hf]
    exact .of_unfaulted hf hslots hs.memoryCanonical hs.stackOk hs.pcBounded
  · rw [State.keyUp_faulted hf]
    exact hs.inv_of_no_slots hslots

theorem keyDown_inv {s : State} (hs : s.Sound) (hslots : s.slotsLeft = none) (c : Nibble) : (s.keyDown c).Inv := by
  by_cases hf : s.fault = none
  · cases hk : s.readKey c with
    | true =>
      rw [State.keyDown_pressed hk]
      exact hs.inv_of_no_slots hslots
    | false =>
      cases hr : s.runState with
      | running =>
        rw [State.keyDown_running hf hk hr]
        exact .of_unfaulted hf hslots hs.memoryCanonical hs.stackOk hs.pcBounded
      | waitingForKey r =>
        rw [State.keyDown_waiting hf hk hr]
        exact .of_unfaulted hf hslots hs.memoryCanonical hs.stackOk hs.pcBounded
  · rw [State.keyDown_faulted hf]
    exact hs.inv_of_no_slots hslots

theorem stackOk_reset : StackOk State.reset.stack State.reset.sp :=
  ⟨fun k _ => by simp [State.reset], fun k => by simp [State.reset]⟩

theorem reset_pc_le : State.reset.pc.toNat ≤ 0x10FE := by decide

theorem resetCall_inv {p : Params} {rom : List Byte} {s t : State} (h : resetCall p rom s = .next t) : t.Inv := by
  by_cases hlen : rom.length ≤ 3584
  · cases (resetCall_of_fits p s hlen).symm.trans h
    exact .of_unfaulted rfl rfl (Memory.wf_image p.font rom) stackOk_reset reset_pc_le
  · rw [resetCall_of_too_long p s (by omega)] at h
    cases h

/-- Settles O19: memory lists nothing, the stack is clear, and no record is latched. -/
theorem resetStateSatisfiesTheInvariant : Obligations.ResetStateSatisfiesTheInvariant :=
  .of_unfaulted rfl rfl Memory.wf_empty stackOk_reset reset_pc_le

/-- Settles O20, by the cases of a step: a slot keeps the clauses and its end moves the count, an event between two
cycles writes the keypad, a register or the wait latch of an unfaulted machine, and a reset builds the reset state. -/
theorem everyStepKeepsTheInvariant : Obligations.EveryStepKeepsTheInvariant := by
  intro s t hs h
  cases step_cases h with
  | slot hslots hrun => exact runSlot_inv hrun hs.sound (hs.slotsBounded _ hslots).2
  | cycle _ _ hrun => exact runSlot_inv hrun (hs.sound.setInputs _) le_rfl
  | idle es hslots => exact (hs.sound.setInputs es).inv_of_no_slots hslots
  | keyDown es hd => exact keyDown_inv (hs.sound.setInputs es) hd.1 _
  | keyUp es hd => exact keyUp_inv (hs.sound.setInputs es) hd.1 _
  | reset _ hcall => exact resetCall_inv hcall

end Sys2Proof.Machine
end

section
/-! PROOFS. The family `41_flow.md`: jumps, calls, returns and the skips on an immediate. -/

namespace Sys2Proof.Machine

/-- A part that reads the same after all is part of what is kept. -/
theorem KeepsAllBut.of_same {p : Part} {ps : List Part} {s t : State} (h : KeepsAllBut (p :: ps) s t)
    (hp : p.same s t) : KeepsAllBut ps s t := fun q hq => by
  by_cases hqp : q = p
  · exact hqp ▸ hp
  · exact h q (by simp [hqp, hq])

/-- Settles O28: both jumps are one write of `pc`, and the fetch check of the step after sees the target. -/
theorem jumpsSetThePc : Obligations.JumpsSetThePc := by
  intro nnn s
  refine ⟨⟨_, exec_jp nnn s, zextAddr_toNat nnn, s.setPc_keeps _, fun hn => ?jump⟩,
    ⟨_, exec_jpV0 nnn s, zextAddr_add_zextByte_toNat nnn _, s.setPc_keeps _, fun hout => ?jumpV0⟩⟩
  case jump =>
    have htarget : zextAddr nnn = 0x0FFF#16 := BitVec.eq_of_toNat_eq ((zextAddr_toNat nnn).trans hn)
    rw [htarget]
    exact ⟨_, stepInstr_of_outside (show 0xFFE < (0x0FFF#16).toNat by decide), rfl⟩
  case jumpV0 =>
    exact ⟨_, stepInstr_of_outside (hout.trans_eq (zextAddr_add_zextByte_toNat nnn _).symm), rfl⟩

/-- Settles O29: one write of `pc`, the advance of a taken skip being the second (rule R150). -/
theorem skipsOnImmediateComparison : Obligations.SkipsOnImmediateComparison := by
  intro x kk s
  refine ⟨⟨_, exec_seImm x kk s, ?equal, s.setPc_keeps _⟩, ⟨_, exec_sneImm x kk s, ?unequal, s.setPc_keeps _⟩⟩
  case equal => simp only [State.setPc_pc, BitVec.toNat_inj]
  case unequal => simp only [State.setPc_pc, BitVec.toNat_inj]

theorem State.push_getElem (s : State) (w : Word) (h : s.sp.val < 16) (k : Fin 16) :
    (s.push w h).stack[k] = if k.val = s.sp.val then w else s.stack[k] := by
  simp [Vector.getElem_set, eq_comm]

theorem State.pop_getElem (s : State) (h : 0 < s.sp.val) (k : Fin 16) :
    (s.pop h).stack[k] = if k.val + 1 = s.sp.val then 0#16 else s.stack[k] := by
  have hiff : s.sp.val - 1 = k.val ↔ k.val + 1 = s.sp.val := by omega
  simp [Vector.getElem_set, hiff]

theorem State.top_eq (s : State) (h : 0 < s.sp.val) {k : Fin 16} (hk : k.val + 1 = s.sp.val) :
    s.top h = s.stack[k] := by
  simp [State.top, ← hk]

/-- Settles O31: the push at slot `sp`, then the jump. -/
theorem callPushesTheReturnAddress : Obligations.CallPushesTheReturnAddress := by
  intro nnn s hsp
  exact ⟨_, exec_call_of_lt nnn hsp, rfl, zextAddr_toNat nnn, s.push_getElem s.pc hsp, s.push_setPc_keeps _ hsp _⟩

/-- Settles O32: the check of a call on a full stack fails. -/
theorem callOnAFullStackFaults : Obligations.CallOnAFullStackFaults := by
  intro nnn s hsp
  exact ⟨_, exec_call_of_full nnn hsp, s.raiseIn_fault _ _ _, s.raiseIn_keeps _ _ _⟩

/-- Settles O33: the pop of slot `sp - 1`, then the jump to what stood there. -/
theorem returnPopsAndClearsTheSlot : Obligations.ReturnPopsAndClearsTheSlot := by
  intro s hsp
  refine ⟨_, exec_ret_of_pos hsp, Nat.sub_add_cancel hsp, fun k hk => ⟨s.top_eq hsp hk, ?cleared⟩, fun k hk => ?kept,
    s.pop_setPc_keeps hsp _⟩
  case cleared => exact (s.pop_getElem hsp k).trans (if_pos hk)
  case kept => exact (s.pop_getElem hsp k).trans (if_neg hk)

/-- Settles O34: the check of a return on an empty stack fails. -/
theorem returnOnAnEmptyStackFaults : Obligations.ReturnOnAnEmptyStackFaults := by
  intro s hsp
  exact ⟨_, exec_ret_of_empty hsp, s.raiseIn_fault _ _ _, s.raiseIn_keeps _ _ _⟩

/-- Settles O36: the slot the call filled is the one the return pops. -/
theorem returnUndoesACall : Obligations.ReturnUndoesACall := by
  intro nnn s hsp
  let t := (s.push s.pc hsp).setPc (zextAddr nnn)
  have hdepth : t.sp.val = s.sp.val + 1 := rfl
  have hused : 0 < t.sp.val := by omega
  have htop : t.top hused = s.pc := by
    rw [t.top_eq hused (k := ⟨s.sp.val, hsp⟩) hdepth.symm]
    exact (s.push_getElem s.pc hsp _).trans (if_pos rfl)
  have hkeeps : KeepsAllBut [.pc, .stack] s ((t.pop hused).setPc (t.top hused)) :=
    (s.push_setPc_keeps s.pc hsp _).trans (t.pop_setPc_keeps hused _)
  refine ⟨t, _, exec_call_of_lt nnn hsp, exec_ret_of_pos hused, htop, Fin.ext (Nat.add_sub_cancel s.sp.val 1),
    fun k => ?slots, hkeeps.of_same htop⟩
  case slots =>
    rw [State.setPc_stack, t.pop_getElem hused k, hdepth]
    simp only [Nat.add_right_cancel_iff]
    split
    case isTrue => rfl
    case isFalse hk => exact (s.push_getElem s.pc hsp k).trans (if_neg hk)

end Sys2Proof.Machine
end

section
/-! PROOFS. The family `42_alu.md`: logic, subtraction, shifts and the random byte. -/

namespace Sys2Proof.Machine

/-- Settles O39: each is one write of the destination, and the bits of a bitwise operation are those of its operands. -/
theorem logicWorksBitByBit : Obligations.LogicWorksBitByBit := by
  intro x y s
  refine ⟨⟨_, exec_orReg x y s, s.setV_keepsRegs x _, s.setV_keeps x _, fun b => ?or⟩,
    ⟨_, exec_andReg x y s, s.setV_keepsRegs x _, s.setV_keeps x _, fun b => ?and⟩,
    ⟨_, exec_xorReg x y s, s.setV_keepsRegs x _, s.setV_keeps x _, fun b => ?xor⟩⟩
  case or => rw [State.readV_setV_same, BitVec.getLsbD_or]
  case and => rw [State.readV_setV_same, BitVec.getLsbD_and]
  case xor => rw [State.readV_setV_same, BitVec.getLsbD_xor]

/-! ### Subtraction -/

/-- The difference modulo 256, as an integer (rule R179). -/
theorem byte_sub_toNat (a b : Byte) : ((a - b).toNat : Int) = ((a.toNat : Int) - b.toNat) % 256 := by
  have ha := a.isLt
  have hb := b.isLt
  rw [BitVec.toNat_sub]
  omega

theorem State.readV_setVF_other (s : State) {r : Nibble} (h : r ≠ 15) (b : Byte) : (s.setVF b).readV r = s.readV r :=
  s.readV_setV_other h b

/-- With `VF` as the destination only `VF` is written. -/
theorem State.setVF_setV_flag_keepsRegs (s : State) (flag b : Byte) : KeepsRegsBut [15] s ((s.setVF flag).setV 15 b) :=
  fun r hr => s.setVF_setV_keepsRegs 15 flag b r (by simpa using hr)

theorem greaterFlag_toNat (a b : Byte) : ((greaterFlag a b).toNat : Int) = if b.toNat < a.toNat then 1 else 0 := by
  rw [greaterFlag_eq]
  split <;> rfl

/-- Settles O41: with `VF` no operand the flag write leaves both operands, and the destination is not the flag. -/
theorem subtractionSetsTheStrictFlag : Obligations.SubtractionSetsTheStrictFlag := by
  intro x y s hx hy
  refine ⟨⟨_, exec_sub x y s, ?subValue, ?subFlag, s.setVF_setV_keepsRegs x _ _, s.setVF_setV_keeps x _ _⟩,
    ⟨_, exec_subn x y s, ?subnValue, ?subnFlag, s.setVF_setV_keepsRegs x _ _, s.setVF_setV_keeps x _ _⟩⟩
  case subValue | subnValue =>
    rw [State.readV_setV_same, State.readV_setVF_other s hx, State.readV_setVF_other s hy, byte_sub_toNat]
  case subFlag | subnFlag =>
    rw [State.readV_flag_setV _ hx, State.readV_flag_setVF]
    exact greaterFlag_eq _ _

/-- Settles O42: an operand `VF` is read as the flag write left it (decision D12). -/
theorem subtractionWithTheFlagAsOperand : Obligations.SubtractionWithTheFlagAsOperand := by
  refine ⟨fun y s hy => ?destination, fun x s hx => ?source, fun s => ?both⟩
  case destination =>
    refine ⟨⟨_, exec_sub 15 y s, s.setVF_setV_flag_keepsRegs _ _, s.setVF_setV_keeps 15 _ _, ?_⟩,
      ⟨_, exec_subn 15 y s, s.setVF_setV_flag_keepsRegs _ _, s.setVF_setV_keeps 15 _ _, ?_⟩⟩
    all_goals
      rw [State.readV_setV_same, State.readV_flag_setVF, State.readV_setVF_other s hy, byte_sub_toNat,
        greaterFlag_toNat]
  case source =>
    refine ⟨⟨_, exec_sub x 15 s, s.setVF_setV_keepsRegs x _ _, s.setVF_setV_keeps x _ _, ?subFlag, ?subValue⟩,
      ⟨_, exec_subn x 15 s, s.setVF_setV_keepsRegs x _ _, s.setVF_setV_keeps x _ _, ?subnFlag, ?subnValue⟩⟩
    case subFlag | subnFlag =>
      rw [State.readV_flag_setV _ hx, State.readV_flag_setVF]
      exact greaterFlag_eq _ _
    case subValue | subnValue =>
      rw [State.readV_setV_same, State.readV_flag_setV _ hx, State.readV_setVF_other s hx, byte_sub_toNat]
  case both =>
    refine ⟨⟨_, exec_sub 15 15 s, ?_, s.setVF_setV_flag_keepsRegs _ _, s.setVF_setV_keeps 15 _ _⟩,
      ⟨_, exec_subn 15 15 s, ?_, s.setVF_setV_flag_keepsRegs _ _, s.setVF_setV_keeps 15 _ _⟩⟩
    all_goals rw [State.readV_setV_same, BitVec.sub_self]

/-! ### Shifts -/

theorem shrFlag_toNat (a : Byte) : (shrFlag a).toNat = a.toNat % 16 := by
  rw [shrFlag, BitVec.toNat_and]
  exact Nat.and_two_pow_sub_one_eq_mod a.toNat 4

theorem byte_shr_toNat (a : Byte) : (a >>> 1).toNat = a.toNat / 2 := by
  rw [BitVec.toNat_ushiftRight, Nat.shiftRight_one]

theorem byte_shl_toNat (a : Byte) : (a <<< 1).toNat = a.toNat * 2 % 256 := by
  rw [BitVec.toNat_shiftLeft, Nat.shiftLeft_eq]

/-- Bit 7 in place is 128 or nothing (rule R182). -/
theorem shlFlag_eq (a : Byte) : shlFlag a = if 128 ≤ a.toNat then 0x80#8 else 0#8 := by
  have hbit : a.getLsbD 7 = decide (128 ≤ a.toNat) := BitVec.msb_eq_decide a
  rw [shlFlag, show (0x80#8 : Byte) = BitVec.twoPow 8 7 from rfl, BitVec.and_twoPow, hbit]
  simp

theorem shlFlag_shl (a : Byte) : shlFlag a <<< 1 = 0#8 := by
  rw [shlFlag_eq]
  split <;> rfl

/-- Settles O43: with `x ≠ 15` the flag write leaves the operand, with `x = 15` it is the operand (decision D12). -/
theorem shiftsSetTheUnnormalisedFlags : Obligations.ShiftsSetTheUnnormalisedFlags := by
  intro x y s
  refine ⟨⟨_, exec_shr x y s, s.setVF_setV_keepsRegs x _ _, s.setVF_setV_keeps x _ _, fun hx => ⟨?shrValue, ?shrFlag⟩,
      ?shrBoth⟩,
    ⟨_, exec_shl x y s, s.setVF_setV_keepsRegs x _ _, s.setVF_setV_keeps x _ _, fun hx => ⟨?shlValue, ?shlFlag⟩,
      ?shlBoth⟩⟩
  case shrValue => rw [State.readV_setV_same, State.readV_setVF_other s hx, byte_shr_toNat]
  case shrFlag => rw [State.readV_flag_setV _ hx, State.readV_flag_setVF, shrFlag_toNat]
  case shrBoth =>
    rintro rfl
    rw [State.readV_setV_same, State.readV_flag_setVF, byte_shr_toNat, shrFlag_toNat]
  case shlValue => rw [State.readV_setV_same, State.readV_setVF_other s hx, byte_shl_toNat]
  case shlFlag =>
    rw [State.readV_flag_setV _ hx, State.readV_flag_setVF, shlFlag_eq]
    split <;> rfl
  case shlBoth =>
    rintro rfl
    rw [State.readV_setV_same, State.readV_flag_setVF, shlFlag_shl]

/-! ### The random byte -/

theorem State.draw_supplied {s : State} {b : Byte} {bs : List Byte} (h : s.randIn = b :: bs) :
    s.nextRandom = b ∧ s.afterDraw.randIn = bs ∧ s.afterDraw.draws = s.draws := by
  simp [State.nextRandom, State.afterDraw, h]

theorem State.draw_free {s : State} (h : s.randIn = []) :
    s.nextRandom = Config.randomByte s.draws ∧ s.afterDraw.randIn = [] ∧ s.afterDraw.draws = s.draws + 1 := by
  simp [State.nextRandom, State.afterDraw, h]

/-- Settles O44: one draw, then one write of the masked byte (rule R184). -/
theorem randomIsOneDrawnByteUnderTheMask : Obligations.RandomIsOneDrawnByteUnderTheMask := by
  intro x kk s
  refine ⟨_, exec_rnd x kk s, fun b => ?bits, ?none, ?all, fun b bs => State.draw_supplied, State.draw_free,
    s.afterDraw_setV_keepsRegs x _, s.afterDraw_setV_keeps x _⟩
  case bits => rw [State.readV_setV_same, BitVec.getLsbD_and]
  case none =>
    rintro rfl
    rw [State.readV_setV_same, BitVec.and_zero]
  case all =>
    rintro rfl
    rw [State.readV_setV_same]
    exact BitVec.and_allOnes

end Sys2Proof.Machine
end

section
/-! PROOFS. The family `45_keypad_timers.md`: the key skips, the key wait and the timers; and the index add of
`43_index_memory.md`. -/

namespace Sys2Proof.Machine

/-- Settles O46: one write of `I`, a 16-bit sum (rule R201). -/
theorem indexAddIsSixteenBitsWide : Obligations.IndexAddIsSixteenBitsWide := by
  intro x s
  refine ⟨_, exec_addI x s, ?_, s.setI_keeps _⟩
  rw [State.setI_i, BitVec.toNat_add, zextByte_toNat]

/-- A key code of 0-15 is its own low nibble. -/
theorem byte_setWidth_of_toNat_eq {b : Byte} {c : Nibble} (h : b.toNat = c.toNat) : b.setWidth 4 = c :=
  BitVec.eq_of_toNat_eq (by rw [BitVec.toNat_setWidth, h, Nat.mod_eq_of_lt c.isLt])

/-- Settles O55: with a code of 0-15 the check passes, and the skip is one write of `pc` (rules R240, R241). -/
theorem keySkipsTestTheKey : Obligations.KeySkipsTestTheKey := by
  intro x c s hcode
  have hle : (s.readV x).toNat ≤ 15 := by omega
  have hkey : (s.readV x).setWidth 4 = c := byte_setWidth_of_toNat_eq hcode
  rw [exec_skp_of_le hle, exec_sknp_of_le hle, hkey]
  exact ⟨⟨_, rfl, rfl, s.setPc_keeps _⟩, ⟨_, rfl, rfl, s.setPc_keeps _⟩⟩

/-- Settles O56: with a code above 15 the check of both skips fails (decision D9). -/
theorem keyCodeOutOfRangeFaults : Obligations.KeyCodeOutOfRangeFaults := by
  intro x s hcode
  exact ⟨⟨_, exec_of_faultOf_some (if_pos hcode), rfl, s.raiseIn_keeps _ _ _⟩,
    ⟨_, exec_of_faultOf_some (if_pos hcode), rfl, s.raiseIn_keeps _ _ _⟩⟩

/-- Settles O57: one write of the wait latch, and every slot after it is idle (decision D17). -/
theorem keyWaitLatchesTheTarget : Obligations.KeyWaitLatchesTheTarget := by
  intro x s
  refine ⟨_, exec_ldVxK x s, rfl, s.setRun_keeps _, fun k => ?slots⟩
  case slots =>
    let t := s.setRun (.waitingForKey x)
    obtain ⟨n, hn⟩ := runSlot_waiting (s := t.setSlots (some k)) (r := x) rfl k
    exact ⟨_, (step_of_slot rfl).trans hn, t.setSlots_keeps n⟩

/-- Settles O58: each is one write, of the register or of one timer (decision D16). -/
theorem timerCopies : Obligations.TimerCopies := by
  intro x s
  refine ⟨⟨_, exec_ldVxDt x s, s.readV_setV_same x _, s.setV_keepsRegs x _, s.setV_keeps x _⟩,
    ⟨_, exec_ldDtVx x s, rfl, s.setDt_keeps _⟩, ⟨_, exec_ldStVx x s, rfl, s.setSt_keeps _, ?sound⟩⟩
  case sound => rw [State.soundActive_iff, State.setSt_st]

end Sys2Proof.Machine
end

section
/-! PROOFS. The family `43_index_memory.md`: the stores and the load at `I`, and accesses outside memory. -/

namespace Sys2Proof.Machine

/-- Settles O47: the three digits are the bytes stored (rule R203). -/
theorem bcdStoresThreeDigits : Obligations.BcdStoresThreeDigits := by
  intro x s hm hfits
  have hdigit (k : Nat) (hk : k < (bcdDigits (s.readV x)).length) :
      (s.mem.writeBytes s.i.toNat (bcdDigits (s.readV x))).byte (s.i.toNat + k) = (bcdDigits (s.readV x))[k] :=
    Memory.byte_writeBytes_inside hm hk (by rw [bcdDigits_length]; omega)
  refine ⟨_, exec_ldB_of_fits x ((s.spanFits_iff 2).2 hfits), ?hundreds, ?tens, ?ones,
    fun a ha => Memory.byte_writeBytes_outside _ ha, s.setMem_keeps _⟩
  case hundreds => exact (congrArg BitVec.toNat (hdigit 0 (by simp))).trans BitVec.toNat_udiv
  case tens =>
    refine (congrArg BitVec.toNat (hdigit 1 (by simp))).trans ?_
    simp [bcdDigits]
  case ones => exact (congrArg BitVec.toNat (hdigit 2 (by simp))).trans BitVec.toNat_umod

/-- What stands at an offset of the dump (rule R204). -/
theorem State.byte_dump {s : State} {x : Nibble} (hm : s.mem.wf) (hfits : s.i.toNat + (s.readV x).toNat ≤ 0xFFF)
    {k : Nat} (hk : k ≤ (s.readV x).toNat) :
    (s.mem.writeBytes s.i.toNat (s.dumpBytes (s.readV x).toNat)).byte (s.i.toNat + k) = s.dumpByte k := by
  rw [Memory.byte_writeBytes_inside hm (by rw [State.dumpBytes_length]; omega) (by rw [State.dumpBytes_length]; omega),
    State.getElem_dumpBytes]

/-- Settles O48: the bytes of the dump are the registers and then zeros (rule R204). -/
theorem dumpStoresAsManyBytesAsTheValueSays : Obligations.DumpStoresAsManyBytesAsTheValueSays := by
  intro x s hm hfits
  refine ⟨_, exec_ldMemVx_of_fits ((s.spanFits_iff _).2 hfits), fun r hr => ?register, fun j hj hle => ?beyond,
    fun a ha => Memory.byte_writeBytes_outside _ ?outside, s.setMem_keeps _⟩
  case register => exact (State.byte_dump hm hfits hr).trans (s.dumpByte_reg r)
  case beyond => exact (State.byte_dump hm hfits hle).trans (s.dumpByte_beyond hj)
  case outside => rwa [State.dumpBytes_length]

/-- Settles O49: one load of the registers up to the last (rule R205). -/
theorem loadFillsAsManyRegistersAsTheValueSays : Obligations.LoadFillsAsManyRegistersAsTheValueSays := by
  intro x s hfits
  refine ⟨_, exec_ldVxMem_of_fits ((s.spanFits_iff _).2 hfits), fun r hr => ?loaded, fun r hr => ?kept,
    s.loadRegs_keeps _⟩
  case loaded => exact (s.readV_loadRegs _ r).trans (if_pos hr)
  case kept => exact (s.readV_loadRegs _ r).trans (if_neg (not_le.2 hr))

/-- Settles O50: the bytes loaded are the bytes of the dump, register by register. -/
theorem loadAfterDumpRestoresTheRegisters : Obligations.LoadAfterDumpRestoresTheRegisters := by
  intro x y s hm hfits
  refine ⟨_, exec_ldMemVx_of_fits ((s.spanFits_iff _).2 hfits), fun u hmem hi hcount => ?_⟩
  have hlast : loadLast (u.readV y) = min (s.readV x).toNat 15 := by rw [hcount, loadLast]
  have hload : u.spanFits (loadLast (u.readV y)) = true := by
    rw [State.spanFits_iff, hi, hlast]
    omega
  refine ⟨_, exec_ldVxMem_of_fits hload, fun r hr => ?_⟩
  calc (u.loadRegs (loadLast (u.readV y))).readV r
      = u.mem.byte (u.i.toNat + r.toNat) := by rw [State.readV_loadRegs, hlast, if_pos hr]
    _ = s.dumpByte r.toNat := by
        rw [hmem, hi]
        exact State.byte_dump hm hfits (hr.trans (min_le_left _ _))
    _ = s.readV r := s.dumpByte_reg r

/-- Settles O51: the check of each memory instruction fails, before any write (rule R199). -/
theorem accessOutsideMemoryFaults : Obligations.AccessOutsideMemoryFaults := by
  intro i s hout
  have hcheck : faultOf i s = some (.memoryOutOfBounds, some s.lowestOutside) := by
    cases i
    case drw =>
      refine if_neg ?_
      rw [State.spriteFits_iff]
      omega
    case ldB | ldMemVx | ldVxMem =>
      refine if_neg ?_
      rw [State.spanFits_iff]
      exact not_le.2 hout
    all_goals exact absurd hout id
  exact ⟨_, exec_of_faultOf_some hcheck, rfl, s.raiseIn_keeps _ _ _⟩

end Sys2Proof.Machine
end

section
/-! PROOFS. The family `44_display.md`: drawing a sprite. -/

namespace Sys2Proof.Machine

/-- The cells a sprite toggles are those it covers (rule R221). -/
theorem spriteCovers_iff {s : State} {vx vy : Byte} {n idx : Nat} :
    SpriteCovers s vx.toNat vy.toNat n idx ↔ idx ∈ s.spritePixels vx vy n :=
  State.mem_spritePixels.symm

theorem State.spritePixels_lt {s : State} {vx vy : Byte} {n idx : Nat} (h : idx ∈ s.spritePixels vx vy n) :
    idx < 2048 := by
  obtain ⟨row, col, -, -, -, rfl⟩ := State.mem_spritePixels.1 h
  exact pixelIndex_lt vx vy row col

theorem nibble_toNat_le (n : Nibble) : n.toNat ≤ 32 := by
  have h := n.isLt
  omega

/-- Drawing turns over the covered cells (rule R222). -/
theorem State.drawn_cell (s : State) (vx vy : Byte) (n : Nibble) (idx : Nat) :
    Display.cell (s.drawn vx vy n.toNat).1 idx =
      (Display.cell s.display idx ^^ decide (idx ∈ s.spritePixels vx vy n.toNat)) :=
  (Display.draw_spec (s.nodup_spritePixels vx vy (nibble_toNat_le n)) (fun _ => State.spritePixels_lt) s.display
    false).1 idx

/-- The collision: some covered cell was 1 (rule R222). -/
theorem State.drawn_hit (s : State) (vx vy : Byte) (n : Nibble) :
    (s.drawn vx vy n.toNat).2 = true ↔
      ∃ idx, SpriteCovers s vx.toNat vy.toNat n.toNat idx ∧ Display.cell s.display idx = true := by
  have hspec := (Display.draw_spec (s.nodup_spritePixels vx vy (nibble_toNat_le n)) (fun _ => State.spritePixels_lt)
    s.display false).2
  rw [State.drawn, hspec, Bool.false_or, List.any_eq_true]
  simp only [spriteCovers_iff]

/-- The flag after a draw on which some covered cell was 1. -/
theorem collisionFlag_of_hit {s : State} {vx vy : Byte} {n : Nibble}
    (h : ∃ idx, SpriteCovers s vx.toNat vy.toNat n.toNat idx ∧ Display.cell s.display idx = true) :
    collisionFlag (s.drawn vx vy n.toNat).2 = 1#8 := by
  rw [(s.drawn_hit vx vy n).2 h]
  rfl

/-- The flag after a draw on which every covered cell was 0. -/
theorem collisionFlag_of_miss {s : State} {vx vy : Byte} {n : Nibble}
    (h : ∀ idx, SpriteCovers s vx.toNat vy.toNat n.toNat idx → Display.cell s.display idx = false) :
    collisionFlag (s.drawn vx vy n.toNat).2 = 0#8 := by
  have hmiss : (s.drawn vx vy n.toNat).2 = false := by
    rw [← Bool.not_eq_true, State.drawn_hit]
    rintro ⟨idx, hcovers, hone⟩
    rw [h idx hcovers] at hone
    cases hone
  rw [hmiss]
  rfl

/-- Settles O53: one draw of the display and one write of the flag (rules R221, R222). -/
theorem drawTurnsOverTheCellsUnderTheSprite : Obligations.DrawTurnsOverTheCellsUnderTheSprite := by
  intro x y n s hfits
  refine ⟨_, exec_drw_of_fits x y ((s.spriteFits_iff _).2 hfits), fun idx => ?cells, fun h => ?hit, fun h => ?miss,
    State.setV_keepsRegs _ 15#4 _, s.setDisplay_setVF_keeps _ _⟩
  case cells =>
    rw [State.setVF_display, State.setDisplay_display, State.drawn_cell, spriteCovers_iff]
    cases Display.cell s.display idx <;> simp
  case hit => exact (State.readV_flag_setVF _ _).trans (collisionFlag_of_hit h)
  case miss => exact (State.readV_flag_setVF _ _).trans (collisionFlag_of_miss h)

/-! ### Drawing twice -/

theorem State.spritePixels_congr {s t : State} (hm : t.mem = s.mem) (hi : t.i = s.i) (vx vy : Byte) (n : Nat) :
    t.spritePixels vx vy n = s.spritePixels vx vy n := by
  rw [State.spritePixels, State.spritePixels, hm, hi]

theorem spriteCovers_congr {s t : State} (hm : t.mem = s.mem) (hi : t.i = s.i) {vx vy n idx : Nat} :
    SpriteCovers t vx vy n idx ↔ SpriteCovers s vx vy n idx := by
  simp only [SpriteCovers, PixelOn, hm, hi]

/-- The second of two draws of a sprite turns back what the first turned over (rule R223 item 1). -/
theorem State.drawn_again {s t : State} {vx vy : Byte} {n : Nibble} (hm : t.mem = s.mem) (hi : t.i = s.i)
    (hd : t.display = (s.drawn vx vy n.toNat).1) (idx : Nat) :
    Display.cell (t.drawn vx vy n.toNat).1 idx = Display.cell s.display idx := by
  rw [State.drawn_cell, hd, State.drawn_cell, State.spritePixels_congr hm hi, Bool.xor_assoc, Bool.xor_self,
    Bool.xor_false]

/-- On an empty area under a sprite with a set bit the second draw collides with the first (rule R223 item 2). -/
theorem State.drawn_again_hit {s t : State} {vx vy : Byte} {n : Nibble} (hm : t.mem = s.mem) (hi : t.i = s.i)
    (hd : t.display = (s.drawn vx vy n.toNat).1)
    (hclear : ∀ idx, SpriteCovers s vx.toNat vy.toNat n.toNat idx → Display.cell s.display idx = false)
    (hcovers : ∃ idx, SpriteCovers s vx.toNat vy.toNat n.toNat idx) :
    ∃ idx, SpriteCovers t vx.toNat vy.toNat n.toNat idx ∧ Display.cell t.display idx = true := by
  obtain ⟨idx, hidx⟩ := hcovers
  refine ⟨idx, (spriteCovers_congr hm hi).2 hidx, ?_⟩
  rw [hd, State.drawn_cell, hclear idx hidx, decide_eq_true (spriteCovers_iff.1 hidx), Bool.false_xor]

/-- Settles O54: at equal coordinates the two draws are of one list of cells. -/
theorem drawingTwiceRestoresTheDisplay : Obligations.DrawingTwiceRestoresTheDisplay := by
  intro x y n s hfits
  have hfits : s.spriteFits n.toNat = true := (s.spriteFits_iff _).2 hfits
  obtain ⟨t, ht, hm, hi, hd, hflag, hregs⟩ : ∃ t, exec (.drw x y n) s = .next t ∧ t.mem = s.mem ∧ t.i = s.i ∧
      t.display = (s.drawn (s.readV x) (s.readV y) n.toNat).1 ∧
      t.readV 15 = collisionFlag (s.drawn (s.readV x) (s.readV y) n.toNat).2 ∧ KeepsRegsBut [15] s t :=
    ⟨_, exec_drw_of_fits x y hfits, rfl, rfl, rfl, State.readV_flag_setVF _ _, State.setV_keepsRegs _ 15#4 _⟩
  have hfits' : t.spriteFits n.toNat = true := by rwa [State.spriteFits, State.spanFits, hi]
  refine ⟨t, _, ht, exec_drw_of_fits x y hfits', fun hx => hregs x (by simpa using hx),
    fun hy => hregs y (by simpa using hy), fun hx hy =>
      ⟨fun idx => ?restored, fun hclear hcovers => ⟨?firstFlag, ?secondFlag⟩⟩⟩
  case restored =>
    rw [State.setVF_display, State.setDisplay_display, hx, hy, State.drawn_again hm hi hd]
  case firstFlag => rw [hflag, collisionFlag_of_miss hclear]
  case secondFlag =>
    rw [State.readV_flag_setVF, hx, hy, collisionFlag_of_hit (State.drawn_again_hit hm hi hd hclear hcovers)]

end Sys2Proof.Machine
end

section
/-! PROOFS. What instructions do not read: the sound timer, and but for the key skips the keypad (`10_state.md` sections
7, 8 and 13). -/

namespace Sys2Proof.Machine

/-- The state with other keys and another sound timer: the two parts that reach a body only through the key skips and
`Fx18`. -/
def State.carry (s : State) (keys : Vector Bool 16) (b : Byte) : State := { s with keypad := keys, st := b }

/-- No check looks at the keys or at the sound timer. -/
theorem faultOf_carry (i : Instr) (s : State) (keys : Vector Bool 16) (b : Byte) :
    faultOf i (s.carry keys b) = faultOf i s := by
  cases i <;> rfl

theorem State.carry_of_keypad_eq {t : State} {keys : Vector Bool 16} (h : t.keypad = keys) (b : Byte) :
    t.carry keys b = t.setSt b := by
  subst h
  rfl

theorem State.carry_of_st_eq {t : State} {b : Byte} (h : t.st = b) (keys : Vector Bool 16) :
    t.carry keys b = { t with keypad := keys } := by
  subst h
  rfl

/-- An instruction but `Fx18` carries the keys and the sound timer along; for a key skip the keys must be the same. -/
theorem exec_carry {i : Instr} {s t : State} (keys : Vector Bool 16) (b : Byte)
    (hkeys : (∃ x, i = .skp x ∨ i = .sknp x) → s.keypad = keys) (hst : ∀ x, i ≠ .ldStVx x) (h : exec i s = .next t) :
    exec i (s.carry keys b) = .next (t.carry keys b) := by
  have hfault := faultOf_carry i s keys b
  rcases exec_cases h with ⟨c, n, hf, rfl⟩ | ⟨hf, -⟩
  · rw [exec_of_faultOf_some (hfault.trans hf)]
    rfl
  · have hf' := hfault.trans hf
    cases i
    case ldStVx x => exact absurd rfl (hst x)
    case skp x =>
      cases hkeys ⟨x, .inl rfl⟩
      cases (exec_skp_of_le (code_of_faultOf_skp hf)).symm.trans h
      exact exec_skp_of_le (code_of_faultOf_skp hf')
    case sknp x =>
      cases hkeys ⟨x, .inr rfl⟩
      cases (exec_sknp_of_le (code_of_faultOf_sknp hf)).symm.trans h
      exact exec_sknp_of_le (code_of_faultOf_sknp hf')
    case seImm | sneImm | seReg | sneReg =>
      simp only [exec_seImm, exec_sneImm, exec_seReg, exec_sneReg] at h ⊢
      cases h
      rfl
    case rnd =>
      cases h
      simp only [exec_rnd, State.afterDraw, State.nextRandom, State.carry]
      cases s.randIn <;> rfl
    case ret =>
      cases (exec_ret_of_pos (pos_of_faultOf_ret hf)).symm.trans h
      exact exec_ret_of_pos (pos_of_faultOf_ret hf')
    case call nnn =>
      cases (exec_call_of_lt nnn (lt_of_faultOf_call hf)).symm.trans h
      exact exec_call_of_lt nnn (lt_of_faultOf_call hf')
    case drw x y n =>
      cases (exec_drw_of_fits x y (fits_of_faultOf_drw hf)).symm.trans h
      exact exec_drw_of_fits x y (fits_of_faultOf_drw hf')
    case ldB x =>
      cases (exec_ldB_of_fits x (fits_of_faultOf_ldB hf)).symm.trans h
      exact exec_ldB_of_fits x (fits_of_faultOf_ldB hf')
    case ldMemVx =>
      cases (exec_ldMemVx_of_fits (fits_of_faultOf_ldMemVx hf)).symm.trans h
      exact exec_ldMemVx_of_fits (fits_of_faultOf_ldMemVx hf')
    case ldVxMem =>
      cases (exec_ldVxMem_of_fits (fits_of_faultOf_ldVxMem hf)).symm.trans h
      exact exec_ldVxMem_of_fits (fits_of_faultOf_ldVxMem hf')
    all_goals
      cases h
      rfl

theorem keypad_eq_of_readKey_eq {s t : State} (h : ∀ c, t.readKey c = s.readKey c) : t.keypad = s.keypad :=
  Vector.ext fun k hk => by simpa [State.readKey, Nat.mod_eq_of_lt hk] using h (BitVec.ofNat 4 k)

theorem keypad_not_mem_partsWritten (i : Instr) : Part.keypad ∉ partsWritten i := by
  cases i <;> simp [partsWritten]

theorem exec_keypad {i : Instr} {s t : State} (h : exec i s = .next t) : t.keypad = s.keypad :=
  keypad_eq_of_readKey_eq (exec_keepsAllBut_partsWritten h .keypad (keypad_not_mem_partsWritten i))

/-- Only `Fx18` writes the sound timer. -/
theorem exec_st {i : Instr} {s t : State} (h : exec i s = .next t) (hst : ∀ x, i ≠ .ldStVx x) : t.st = s.st := by
  refine exec_keepsAllBut_partsWritten h .soundTimer ?_
  cases i
  case ldStVx x => exact absurd rfl (hst x)
  all_goals simp [partsWritten]

/-- Every instruction but `Fx18` carries the sound timer along. -/
theorem exec_setSt {i : Instr} {s t : State} (b : Byte) (hst : ∀ x, i ≠ .ldStVx x) (h : exec i s = .next t) :
    exec i (s.setSt b) = .next (t.setSt b) := by
  rw [← State.carry_of_keypad_eq (exec_keypad h), ← State.carry_of_keypad_eq (t := s) rfl]
  exact exec_carry s.keypad b (fun _ => rfl) hst h

/-- Settles O26: `Fx18` overwrites the timer, and every other instruction carries it along. -/
theorem noInstructionReadsTheSoundTimer : Obligations.NoInstructionReadsTheSoundTimer := by
  intro i s b
  obtain ⟨t, ht⟩ := exec_next i s
  refine ⟨t, ht, ?_⟩
  cases i
  case ldStVx x =>
    cases ht
    rfl
  all_goals exact exec_setSt b nofun ht

/-- Settles O27: `Fx18` writes the same value under any keys, and every other instruction but the key skips carries them
along. -/
theorem onlyKeySkipsReadTheKeypad : Obligations.OnlyKeySkipsReadTheKeypad := by
  intro i s keys hskp hsknp
  obtain ⟨t, ht⟩ := exec_next i s
  refine ⟨t, ht, ?_⟩
  have hnoSkip : ¬∃ x, i = .skp x ∨ i = .sknp x := fun ⟨x, hx⟩ => hx.elim (hskp x) (hsknp x)
  by_cases hst : ∃ x, i = .ldStVx x
  · obtain ⟨x, rfl⟩ := hst
    cases ht
    rfl
  · have hst : ∀ x, i ≠ .ldStVx x := fun x hx => hst ⟨x, hx⟩
    rw [← State.carry_of_st_eq (exec_st ht hst), ← State.carry_of_st_eq (t := s) rfl]
    exact exec_carry keys s.st (fun h => absurd h hnoSkip) hst ht

end Sys2Proof.Machine
end
